-- ==== Sys2Proof/Word.lean ====
section
/-! DEFINITION. The words of the gzcomp CORE and the plain tables the block writer works with:
bytes, 16-bit command words, 32-bit registers and response words, and the working state of a
flush (`spec/10_state.md` R29). -/

namespace Sys2Proof

/-- One byte of the input or the output stream (R8: `u8`). -/
abbrev Byte := BitVec 8

/-- A 32-bit register, counter or response word (R8: `u32`). -/
abbrev Word := BitVec 32

/-- One host command word (R90). -/
abbrev CmdWord := BitVec 16

/-- A 24-bit prefix key `{IN[q], IN[q+1], IN[q+2]}` (R151). -/
abbrev Key := BitVec 24

/-- One bit as a natural number. -/
def bitNat (b : Bool) : Nat := if b then 1 else 0

/-- Entry `i` of a fixed-size table; an index outside it reads 0 (no rule reads outside a table). -/
def entry {w n : Nat} (t : Vector (BitVec w) n) (i : Nat) : BitVec w := t.getD i 0

/-- The table of `n` fields of `w` bits that holds the numbers of a list, 0 where the list ends. -/
def packTable (w n : Nat) (l : List Nat) : Vector (BitVec w) n :=
  Vector.ofFn fun i => BitVec.ofNat w (l.getD i.val 0)

/-- The numbers a table holds, in index order. -/
def tableNats {w n : Nat} (t : Vector (BitVec w) n) : List Nat := t.toList.map BitVec.toNat

/-- A CL Symbol `(value, extra value, extra bits)`, value 0 to 18 (glossary; R220). -/
structure ClSym where
  v  : Nat
  xv : Nat
  xb : Nat
  deriving DecidableEq, Repr, Inhabited

/-- The code lengths and codes a block's payload is written with (R252). -/
structure CodeTables where
  lenLL  : Vector (BitVec 4) 288
  codeLL : Vector (BitVec 15) 288
  lenD   : Vector (BitVec 4) 30
  codeD  : Vector (BitVec 15) 30
  deriving DecidableEq, Repr, Inhabited

/-- The working state of a flush (R29): computed afresh by BUILD_DYNAMIC_TABLES (R243), never read
outside the step that computed it. -/
structure Work where
  freqCL : Vector (BitVec 32) 19
  lenLL  : Vector (BitVec 4) 288
  lenD   : Vector (BitVec 4) 30
  lenCL  : Vector (BitVec 4) 19
  codeLL : Vector (BitVec 15) 288
  codeD  : Vector (BitVec 15) 30
  codeCL : Vector (BitVec 15) 19
  cls    : List ClSym
  hlit   : BitVec 5
  hdist  : BitVec 5
  hclen  : BitVec 4
  perm   : Vector (BitVec 3) 19
  deriving DecidableEq, Repr, Inhabited

/-- The payload's code tables out of the working state. -/
def Work.tables (w : Work) : CodeTables :=
  { lenLL := w.lenLL, codeLL := w.codeLL, lenD := w.lenD, codeD := w.codeD }

/-- Working state of all zeros. DESIGN CHOICE (log 2): the spec gives no reset value. -/
def Work.zero : Work :=
  { freqCL := packTable 32 19 [], lenLL := packTable 4 288 [], lenD := packTable 4 30 [],
    lenCL := packTable 4 19 [], codeLL := packTable 15 288 [], codeD := packTable 15 30 [],
    codeCL := packTable 15 19 [], cls := [], hlit := 0, hdist := 0, hclen := 0,
    perm := packTable 3 19 [] }

end Sys2Proof
end

