-- ==== Sys2Proof/Config.lean ====
section
/-! DEFINITION. What an implementation fixes: the constants of `spec/00_scope.md` R5, the open
parameters of R6 as constants without a body (every claim holds for each value the spec allows),
and the free value of the model. -/

namespace Sys2Proof.Config

/-! ## Constants the spec fixes (R5) -/

/-- Window bound and largest match distance. -/
@[simp] def maxBackrefDist : Nat := 32768

/-- Largest match length. -/
@[simp] def maxMatch : Nat := 258

/-- Smallest match length emitted. -/
@[simp] def minMatch : Nat := 3

/-- Bytes that must be available for a match attempt (R158). -/
@[simp] def minLookahead : Nat := 4

/-- Early-exit match length (R161). -/
@[simp] def threshold : Nat := 250

/-- A block is flushed once it holds more Symbols than this (R253). -/
@[simp] def maxBlockSize : Nat := 800000

/-- A final block with fewer Symbols than this is fixed (R254). -/
@[simp] def fixedBlockLimit : Nat := 200

/-- Longest literal/length and distance code. -/
@[simp] def maxCodeLen : Nat := 15

/-- Longest code-length code. -/
@[simp] def maxClCodeLen : Nat := 7

/-- The lookahead an encode step waits for before end of input (R281). -/
@[simp] def lookaheadMin : Nat := 260

/-- The order the CL code lengths are sent in (R5, R250). -/
def clOrder : List Nat := [16, 17, 18, 0, 8, 7, 9, 6, 10, 5, 11, 4, 12, 3, 13, 2, 14, 1, 15]

/-! ## Parameters the spec leaves open (R6)

Each bounded parameter is its least allowed value plus a constant without a body, so that exactly
the values the spec allows are covered and no proof can see which one it is (log 4). -/

/-- How far `LA_CAP` exceeds its least value 260. -/
opaque laCapExtra : Nat

/-- `LA_CAP`, the lookahead capacity in bytes, at least 260 (R6, D7). -/
@[irreducible] def laCap : Nat := laCapExtra + 260

/-- How far `RING_SIZE` exceeds its least value `32768 + LA_CAP`. -/
opaque ringExtra : Nat

/-- `RING_SIZE`, the bytes of the history ring buffer, at least `32768 + LA_CAP` (R6, D7). -/
@[irreducible] def ringSize : Nat := ringExtra + (laCap + 32768)

/-- How far `OQ_DEPTH` exceeds its least value 1. -/
opaque oqExtra : Nat

/-- `OQ_DEPTH`, the entries of the output FIFO, at least 1 (R6, D24). -/
@[irreducible] def oqDepth : Nat := oqExtra + 1

/-- How far `POS_WIDTH` exceeds its least value 33. -/
opaque posExtra : Nat

/-- `POS_WIDTH`, the width of the position counters, at least 33 (R6, D27). -/
@[irreducible] def posWidth : Nat := posExtra + 33

/-- `crc_step(byte, state)`, the collaborator that folds one byte into a finished CRC32 (R314, D25). -/
opaque crcStep : Byte → Word → Word

/-- `CORE_ID`, the value of the ID register (R45, D26). -/
opaque coreId : Word

/-! ## Free value of the model -/

/-- What the working state of a flush holds after the `n`-th FLUSH or FINISH since reset of the
model: the spec calls it unspecified (R29; log 3). Nothing constrains it. -/
opaque freeWork : Nat → Work

end Sys2Proof.Config
end

