-- ==== Sys2Proof/Syntax.lean ====
section
/-! DEFINITION. The instructions of `spec/opcode_table.json`, one constructor a row: the host's
commands (R90, R91) and the elements of the DEFLATE stream the core writes (R97 to R106). Beside
them the encoded words: a word and the table format it is written in. -/

namespace Sys2Proof

/-- The word formats of the opcode table: the host's command word and the four element formats. -/
inductive Format where
  /-- `CMD16`: the 16-bit host command word (R90). -/
  | cmd16
  /-- `LL9`: a literal/length symbol id of 9 bits, then its extra bits (R102). -/
  | ll9
  /-- `D5`: a distance symbol id of 5 bits, then its extra bits (R103). -/
  | d5
  /-- `CL5`: a code-length symbol id of 5 bits, then its extra bits (R101). -/
  | cl5
  /-- `BH3`: a block header, `BFINAL` in bit 0 and `BTYPE` in bits 2:1 (R98). -/
  | bh3
  deriving DecidableEq, Repr, Inhabited

/-- An encoded word: the bits, and the format that says which table they are read by. The format
is the context the spec's grammar gives (R106: which alphabet applies is fixed by rules R98 to R105;
a command word comes in at the host port, R90). The extra bits of an element stand directly above
its symbol id. DESIGN CHOICE (log 6). -/
structure Code where
  fmt  : Format
  bits : BitVec 32
  deriving DecidableEq, Repr, Inhabited

/-- The bits a word of each format can use: the id and the most extra bits of its rows. -/
def Format.width : Format → Nat
  | .cmd16 => 16
  | .ll9   => 14
  | .d5    => 18
  | .cl5   => 12
  | .bh3   => 3

/-- One constructor per row of `spec/opcode_table.json`. An operand is the row's field: a byte, a
register index, the free bits of a reserved opcode, a symbol's extra value, or `BFINAL`. -/
inductive Instr where
  /-- `NOP`: no operation (R302). -/
  | nop
  /-- `PUSH b`: offer one input byte (R303). -/
  | push (b : BitVec 8)
  /-- `EOI`: declare the end of input (R304). -/
  | eoi
  /-- `POP`: take one output byte (R305). -/
  | pop
  /-- `READ_REG idx`: read a register (R306). -/
  | readReg (idx : BitVec 8)
  /-- `ABORT`: declare an input failure (R307). -/
  | abort
  /-- A word of the reserved opcode 0x6: illegal (R94, R309); `arg` is its bits 11:0. -/
  | reservedOpc6 (arg : BitVec 12)
  /-- A word of the reserved opcode 0x7: illegal (R94, R309); `arg` is its bits 11:0. -/
  | reservedOpc7 (arg : BitVec 12)
  /-- A word of the reserved opcode 0x8: illegal (R94, R309); `arg` is its bits 11:0. -/
  | reservedOpc8 (arg : BitVec 12)
  /-- A word of the reserved opcode 0x9: illegal (R94, R309); `arg` is its bits 11:0. -/
  | reservedOpc9 (arg : BitVec 12)
  /-- A word of the reserved opcode 0xA: illegal (R94, R309); `arg` is its bits 11:0. -/
  | reservedOpcA (arg : BitVec 12)
  /-- A word of the reserved opcode 0xB: illegal (R94, R309); `arg` is its bits 11:0. -/
  | reservedOpcB (arg : BitVec 12)
  /-- A word of the reserved opcode 0xC: illegal (R94, R309); `arg` is its bits 11:0. -/
  | reservedOpcC (arg : BitVec 12)
  /-- A word of the reserved opcode 0xD: illegal (R94, R309); `arg` is its bits 11:0. -/
  | reservedOpcD (arg : BitVec 12)
  /-- A word of the reserved opcode 0xE: illegal (R94, R309); `arg` is its bits 11:0. -/
  | reservedOpcE (arg : BitVec 12)
  /-- `SOFT_RESET`: reset the core (R308). -/
  | softReset
  /-- A literal byte (R102, R252). -/
  | lit (b : BitVec 8)
  /-- End of block, symbol 256 (R102, R252). -/
  | eob
  /-- Length symbol 257: length 3 (R140, R141). -/
  | len257
  /-- Length symbol 258: length 4 (R140, R141). -/
  | len258
  /-- Length symbol 259: length 5 (R140, R141). -/
  | len259
  /-- Length symbol 260: length 6 (R140, R141). -/
  | len260
  /-- Length symbol 261: length 7 (R140, R141). -/
  | len261
  /-- Length symbol 262: length 8 (R140, R141). -/
  | len262
  /-- Length symbol 263: length 9 (R140, R141). -/
  | len263
  /-- Length symbol 264: length 10 (R140, R141). -/
  | len264
  /-- Length symbol 265: lengths 11 to 12 (R140, R141). -/
  | len265 (xv : BitVec 1)
  /-- Length symbol 266: lengths 13 to 14 (R140, R141). -/
  | len266 (xv : BitVec 1)
  /-- Length symbol 267: lengths 15 to 16 (R140, R141). -/
  | len267 (xv : BitVec 1)
  /-- Length symbol 268: lengths 17 to 18 (R140, R141). -/
  | len268 (xv : BitVec 1)
  /-- Length symbol 269: lengths 19 to 22 (R140, R141). -/
  | len269 (xv : BitVec 2)
  /-- Length symbol 270: lengths 23 to 26 (R140, R141). -/
  | len270 (xv : BitVec 2)
  /-- Length symbol 271: lengths 27 to 30 (R140, R141). -/
  | len271 (xv : BitVec 2)
  /-- Length symbol 272: lengths 31 to 34 (R140, R141). -/
  | len272 (xv : BitVec 2)
  /-- Length symbol 273: lengths 35 to 42 (R140, R141). -/
  | len273 (xv : BitVec 3)
  /-- Length symbol 274: lengths 43 to 50 (R140, R141). -/
  | len274 (xv : BitVec 3)
  /-- Length symbol 275: lengths 51 to 58 (R140, R141). -/
  | len275 (xv : BitVec 3)
  /-- Length symbol 276: lengths 59 to 66 (R140, R141). -/
  | len276 (xv : BitVec 3)
  /-- Length symbol 277: lengths 67 to 82 (R140, R141). -/
  | len277 (xv : BitVec 4)
  /-- Length symbol 278: lengths 83 to 98 (R140, R141). -/
  | len278 (xv : BitVec 4)
  /-- Length symbol 279: lengths 99 to 114 (R140, R141). -/
  | len279 (xv : BitVec 4)
  /-- Length symbol 280: lengths 115 to 130 (R140, R141). -/
  | len280 (xv : BitVec 4)
  /-- Length symbol 281: lengths 131 to 162 (R140, R141). -/
  | len281 (xv : BitVec 5)
  /-- Length symbol 282: lengths 163 to 194 (R140, R141). -/
  | len282 (xv : BitVec 5)
  /-- Length symbol 283: lengths 195 to 226 (R140, R141). -/
  | len283 (xv : BitVec 5)
  /-- Length symbol 284: lengths 227 to 257 (R140, R141). -/
  | len284 (xv : BitVec 5)
  /-- Length symbol 285: length 258 (R140, R141). -/
  | len285
  /-- Distance symbol 0: distance 1 (R142, R143). -/
  | dist0
  /-- Distance symbol 1: distance 2 (R142, R143). -/
  | dist1
  /-- Distance symbol 2: distance 3 (R142, R143). -/
  | dist2
  /-- Distance symbol 3: distance 4 (R142, R143). -/
  | dist3
  /-- Distance symbol 4: distances 5 to 6 (R142, R143). -/
  | dist4 (xv : BitVec 1)
  /-- Distance symbol 5: distances 7 to 8 (R142, R143). -/
  | dist5 (xv : BitVec 1)
  /-- Distance symbol 6: distances 9 to 12 (R142, R143). -/
  | dist6 (xv : BitVec 2)
  /-- Distance symbol 7: distances 13 to 16 (R142, R143). -/
  | dist7 (xv : BitVec 2)
  /-- Distance symbol 8: distances 17 to 24 (R142, R143). -/
  | dist8 (xv : BitVec 3)
  /-- Distance symbol 9: distances 25 to 32 (R142, R143). -/
  | dist9 (xv : BitVec 3)
  /-- Distance symbol 10: distances 33 to 48 (R142, R143). -/
  | dist10 (xv : BitVec 4)
  /-- Distance symbol 11: distances 49 to 64 (R142, R143). -/
  | dist11 (xv : BitVec 4)
  /-- Distance symbol 12: distances 65 to 96 (R142, R143). -/
  | dist12 (xv : BitVec 5)
  /-- Distance symbol 13: distances 97 to 128 (R142, R143). -/
  | dist13 (xv : BitVec 5)
  /-- Distance symbol 14: distances 129 to 192 (R142, R143). -/
  | dist14 (xv : BitVec 6)
  /-- Distance symbol 15: distances 193 to 256 (R142, R143). -/
  | dist15 (xv : BitVec 6)
  /-- Distance symbol 16: distances 257 to 384 (R142, R143). -/
  | dist16 (xv : BitVec 7)
  /-- Distance symbol 17: distances 385 to 512 (R142, R143). -/
  | dist17 (xv : BitVec 7)
  /-- Distance symbol 18: distances 513 to 768 (R142, R143). -/
  | dist18 (xv : BitVec 8)
  /-- Distance symbol 19: distances 769 to 1024 (R142, R143). -/
  | dist19 (xv : BitVec 8)
  /-- Distance symbol 20: distances 1025 to 1536 (R142, R143). -/
  | dist20 (xv : BitVec 9)
  /-- Distance symbol 21: distances 1537 to 2048 (R142, R143). -/
  | dist21 (xv : BitVec 9)
  /-- Distance symbol 22: distances 2049 to 3072 (R142, R143). -/
  | dist22 (xv : BitVec 10)
  /-- Distance symbol 23: distances 3073 to 4096 (R142, R143). -/
  | dist23 (xv : BitVec 10)
  /-- Distance symbol 24: distances 4097 to 6144 (R142, R143). -/
  | dist24 (xv : BitVec 11)
  /-- Distance symbol 25: distances 6145 to 8192 (R142, R143). -/
  | dist25 (xv : BitVec 11)
  /-- Distance symbol 26: distances 8193 to 12288 (R142, R143). -/
  | dist26 (xv : BitVec 12)
  /-- Distance symbol 27: distances 12289 to 16384 (R142, R143). -/
  | dist27 (xv : BitVec 12)
  /-- Distance symbol 28: distances 16385 to 24576 (R142, R143). -/
  | dist28 (xv : BitVec 13)
  /-- Distance symbol 29: distances 24577 to 32768 (R142, R143). -/
  | dist29 (xv : BitVec 13)
  /-- CL symbol 0: one code length of 0 (R101, R222). -/
  | clLen0
  /-- CL symbol 1: one code length of 1 (R101, R223). -/
  | clLen1
  /-- CL symbol 2: one code length of 2 (R101, R223). -/
  | clLen2
  /-- CL symbol 3: one code length of 3 (R101, R223). -/
  | clLen3
  /-- CL symbol 4: one code length of 4 (R101, R223). -/
  | clLen4
  /-- CL symbol 5: one code length of 5 (R101, R223). -/
  | clLen5
  /-- CL symbol 6: one code length of 6 (R101, R223). -/
  | clLen6
  /-- CL symbol 7: one code length of 7 (R101, R223). -/
  | clLen7
  /-- CL symbol 8: one code length of 8 (R101, R223). -/
  | clLen8
  /-- CL symbol 9: one code length of 9 (R101, R223). -/
  | clLen9
  /-- CL symbol 10: one code length of 10 (R101, R223). -/
  | clLen10
  /-- CL symbol 11: one code length of 11 (R101, R223). -/
  | clLen11
  /-- CL symbol 12: one code length of 12 (R101, R223). -/
  | clLen12
  /-- CL symbol 13: one code length of 13 (R101, R223). -/
  | clLen13
  /-- CL symbol 14: one code length of 14 (R101, R223). -/
  | clLen14
  /-- CL symbol 15: one code length of 15 (R101, R223). -/
  | clLen15
  /-- CL symbol 16: repeat the previous length `3 + xv` times (R101, R223). -/
  | cl16 (xv : BitVec 2)
  /-- CL symbol 17: `3 + xv` zero lengths (R101, R222). -/
  | cl17 (xv : BitVec 3)
  /-- CL symbol 18: `11 + xv` zero lengths (R101, R222). -/
  | cl18 (xv : BitVec 7)
  /-- A fixed Huffman block, BTYPE 1 (R98, R242). -/
  | blockFixed (bfinal : BitVec 1)
  /-- A dynamic Huffman block, BTYPE 2 (R98, R251). -/
  | blockDynamic (bfinal : BitVec 1)
  deriving DecidableEq, Repr, Inhabited

end Sys2Proof
end

