-- ==== Sys2Proof/WellFormed.lean ====
section
/-! DEFINITION. Which terms of `Instr` the tables of the spec admit. The operand widths are in the
constructors' types; the one constraint left is R141's: symbol 284 is used for lengths 227 to 257
only, so its extra value is never 31. -/

namespace Sys2Proof

/-- `len284`'s extra value spells a length of 227 to 257 (R140, R141: 258 has symbol 285 alone). -/
def Instr.lengthOk : Instr → Bool
  | .len284 xv => decide (xv.toNat < 31)
  | _ => true

/-- An instruction the spec's tables admit. -/
def Instr.wf (i : Instr) : Bool := i.lengthOk

end Sys2Proof
end

