-- ==== Sys2Proof/Decode.lean ====
section
/-! DEFINITION. The decoder, total on every word and rejecting by name, and after it the encoder
(R90 to R106 and the tables R141, R143). Numbers are read with `%` and `/` by powers of two: the
field `v[hi:lo]` of R8 is `v / 2^lo % 2^(hi+1-lo)`. -/

namespace Sys2Proof

/-- Why a word stands for no instruction. -/
inductive DecodeError where
  /-- A command word with a nonzero `RSV`, or a nonzero `ARG` where it must be 0 (R94). -/
  | illegalCommandWord
  /-- A symbol id its alphabet does not use (LL 286 and above, distance 30 and 31, CL 19 and above:
  R102, R103, R101), or a `BTYPE` never emitted (0 and 3: R99). -/
  | unusedSymbol
  /-- An extra value its symbol does not admit (R104; 31 for symbol 284: R141). -/
  | extraOutOfRange
  /-- Bits set above the word's format. -/
  | strayBits
  /-- A host command word where an element of the stream is wanted (R106). -/
  | notAnElement
  deriving DecidableEq, Repr

/-! ## The host command word (R90 to R94) -/

/-- A command without an operand: legal only with `ARG = 0` (R90). -/
def noArg (arg : Nat) (i : Instr) : Except DecodeError Instr :=
  if arg = 0 then .ok i else .error .illegalCommandWord

/-- A legal word's opcode map (R91), given `OPC` and `ARG`; the word's `RSV` is 0. -/
def decodeOpcode (opc arg : Nat) : Except DecodeError Instr :=
  match opc with
  | 0  => noArg arg .nop
  | 1  => .ok (.push (BitVec.ofNat 8 arg))
  | 2  => noArg arg .eoi
  | 3  => noArg arg .pop
  | 4  => .ok (.readReg (BitVec.ofNat 8 arg))
  | 5  => noArg arg .abort
  | 15 => noArg arg .softReset
  | _  => .error .illegalCommandWord

/-- Decode a host command word (R90, R91, R94). The reserved opcodes 6 to 14 are rows of the
table, whatever their other bits. -/
def decodeCmd (w : CmdWord) : Except DecodeError Instr :=
  let n := w.toNat
  let opc := n / 4096
  let low := n % 4096
  match opc with
  | 6  => .ok (.reservedOpc6 (BitVec.ofNat 12 low))
  | 7  => .ok (.reservedOpc7 (BitVec.ofNat 12 low))
  | 8  => .ok (.reservedOpc8 (BitVec.ofNat 12 low))
  | 9  => .ok (.reservedOpc9 (BitVec.ofNat 12 low))
  | 10 => .ok (.reservedOpcA (BitVec.ofNat 12 low))
  | 11 => .ok (.reservedOpcB (BitVec.ofNat 12 low))
  | 12 => .ok (.reservedOpcC (BitVec.ofNat 12 low))
  | 13 => .ok (.reservedOpcD (BitVec.ofNat 12 low))
  | 14 => .ok (.reservedOpcE (BitVec.ofNat 12 low))
  | _  => if low / 256 = 0 then decodeOpcode opc (low % 256) else .error .illegalCommandWord

/-! ## The elements of the stream (R98 to R104) -/

/-- An element without extra bits. -/
def noExtra (xv : Nat) (i : Instr) : Except DecodeError Instr :=
  if xv = 0 then .ok i else .error .extraOutOfRange

/-- An element with `n` extra bits: its extra value is below `2^n` (R104). -/
def withExtra (n xv : Nat) (mk : BitVec n → Instr) : Except DecodeError Instr :=
  if xv < 2 ^ n then .ok (mk (BitVec.ofNat n xv)) else .error .extraOutOfRange

/-- The literal/length alphabet (R102, R141): symbol id and extra value. -/
def decodeLL (sym xv : Nat) : Except DecodeError Instr :=
  if sym < 256 then noExtra xv (.lit (BitVec.ofNat 8 sym)) else
  match sym with
  | 256 => noExtra xv .eob
  | 257 => noExtra xv .len257
  | 258 => noExtra xv .len258
  | 259 => noExtra xv .len259
  | 260 => noExtra xv .len260
  | 261 => noExtra xv .len261
  | 262 => noExtra xv .len262
  | 263 => noExtra xv .len263
  | 264 => noExtra xv .len264
  | 265 => withExtra 1 xv .len265
  | 266 => withExtra 1 xv .len266
  | 267 => withExtra 1 xv .len267
  | 268 => withExtra 1 xv .len268
  | 269 => withExtra 2 xv .len269
  | 270 => withExtra 2 xv .len270
  | 271 => withExtra 2 xv .len271
  | 272 => withExtra 2 xv .len272
  | 273 => withExtra 3 xv .len273
  | 274 => withExtra 3 xv .len274
  | 275 => withExtra 3 xv .len275
  | 276 => withExtra 3 xv .len276
  | 277 => withExtra 4 xv .len277
  | 278 => withExtra 4 xv .len278
  | 279 => withExtra 4 xv .len279
  | 280 => withExtra 4 xv .len280
  | 281 => withExtra 5 xv .len281
  | 282 => withExtra 5 xv .len282
  | 283 => withExtra 5 xv .len283
  | 284 => if xv = 31 then .error .extraOutOfRange else withExtra 5 xv .len284
  | 285 => noExtra xv .len285
  | _ => .error .unusedSymbol

/-- The distance alphabet (R103, R143): symbol id and extra value. -/
def decodeD (sym xv : Nat) : Except DecodeError Instr :=
  match sym with
  | 0 => noExtra xv .dist0
  | 1 => noExtra xv .dist1
  | 2 => noExtra xv .dist2
  | 3 => noExtra xv .dist3
  | 4 => withExtra 1 xv .dist4
  | 5 => withExtra 1 xv .dist5
  | 6 => withExtra 2 xv .dist6
  | 7 => withExtra 2 xv .dist7
  | 8 => withExtra 3 xv .dist8
  | 9 => withExtra 3 xv .dist9
  | 10 => withExtra 4 xv .dist10
  | 11 => withExtra 4 xv .dist11
  | 12 => withExtra 5 xv .dist12
  | 13 => withExtra 5 xv .dist13
  | 14 => withExtra 6 xv .dist14
  | 15 => withExtra 6 xv .dist15
  | 16 => withExtra 7 xv .dist16
  | 17 => withExtra 7 xv .dist17
  | 18 => withExtra 8 xv .dist18
  | 19 => withExtra 8 xv .dist19
  | 20 => withExtra 9 xv .dist20
  | 21 => withExtra 9 xv .dist21
  | 22 => withExtra 10 xv .dist22
  | 23 => withExtra 10 xv .dist23
  | 24 => withExtra 11 xv .dist24
  | 25 => withExtra 11 xv .dist25
  | 26 => withExtra 12 xv .dist26
  | 27 => withExtra 12 xv .dist27
  | 28 => withExtra 13 xv .dist28
  | 29 => withExtra 13 xv .dist29
  | _ => .error .unusedSymbol

/-- The code-length alphabet (R101): symbol id and extra value. -/
def decodeCL (sym xv : Nat) : Except DecodeError Instr :=
  match sym with
  | 0 => noExtra xv .clLen0
  | 1 => noExtra xv .clLen1
  | 2 => noExtra xv .clLen2
  | 3 => noExtra xv .clLen3
  | 4 => noExtra xv .clLen4
  | 5 => noExtra xv .clLen5
  | 6 => noExtra xv .clLen6
  | 7 => noExtra xv .clLen7
  | 8 => noExtra xv .clLen8
  | 9 => noExtra xv .clLen9
  | 10 => noExtra xv .clLen10
  | 11 => noExtra xv .clLen11
  | 12 => noExtra xv .clLen12
  | 13 => noExtra xv .clLen13
  | 14 => noExtra xv .clLen14
  | 15 => noExtra xv .clLen15
  | 16 => withExtra 2 xv .cl16
  | 17 => withExtra 3 xv .cl17
  | 18 => withExtra 7 xv .cl18
  | _ => .error .unusedSymbol

/-- A block header (R98, R99): `BTYPE` and `BFINAL`. -/
def decodeBH (btype bfinal : Nat) : Except DecodeError Instr :=
  match btype with
  | 1 => .ok (.blockFixed (BitVec.ofNat 1 bfinal))
  | 2 => .ok (.blockDynamic (BitVec.ofNat 1 bfinal))
  | _ => .error .unusedSymbol

/-- Decode a word of any format. -/
def decode (c : Code) : Except DecodeError Instr :=
  let n := c.bits.toNat
  match c.fmt with
  | .cmd16 => if n < 65536 then decodeCmd (BitVec.ofNat 16 n) else .error .strayBits
  | .ll9   => decodeLL (n % 512) (n / 512)
  | .d5    => decodeD (n % 32) (n / 32)
  | .cl5   => decodeCL (n % 32) (n / 32)
  | .bh3   => if n < 8 then decodeBH (n / 2) (n % 2) else .error .strayBits

/-! ## The encoder -/

/-- A command word `{OPC, 0b0000, ARG}` (R95). -/
def cmdCode (opc arg : Nat) : Code := { fmt := .cmd16, bits := BitVec.ofNat 32 (opc * 4096 + arg) }

/-- A literal/length element: symbol id and extra value. -/
def llCode (sym xv : Nat) : Code := { fmt := .ll9, bits := BitVec.ofNat 32 (sym + xv * 512) }

/-- A distance element: symbol id and extra value. -/
def dCode (sym xv : Nat) : Code := { fmt := .d5, bits := BitVec.ofNat 32 (sym + xv * 32) }

/-- A code-length element: symbol id and extra value. -/
def clCode (sym xv : Nat) : Code := { fmt := .cl5, bits := BitVec.ofNat 32 (sym + xv * 32) }

/-- A block header: `BTYPE` and `BFINAL`. -/
def bhCode (btype bfinal : Nat) : Code := { fmt := .bh3, bits := BitVec.ofNat 32 (bfinal + btype * 2) }

/-- The word of an instruction, from the encoding tables (R91, R98, R101 to R104). -/
def encode : Instr → Code
  | .nop => cmdCode 0 0
  | .push b => cmdCode 1 b.toNat
  | .eoi => cmdCode 2 0
  | .pop => cmdCode 3 0
  | .readReg idx => cmdCode 4 idx.toNat
  | .abort => cmdCode 5 0
  | .reservedOpc6 arg => cmdCode 6 arg.toNat
  | .reservedOpc7 arg => cmdCode 7 arg.toNat
  | .reservedOpc8 arg => cmdCode 8 arg.toNat
  | .reservedOpc9 arg => cmdCode 9 arg.toNat
  | .reservedOpcA arg => cmdCode 10 arg.toNat
  | .reservedOpcB arg => cmdCode 11 arg.toNat
  | .reservedOpcC arg => cmdCode 12 arg.toNat
  | .reservedOpcD arg => cmdCode 13 arg.toNat
  | .reservedOpcE arg => cmdCode 14 arg.toNat
  | .softReset => cmdCode 15 0
  | .lit b => llCode b.toNat 0
  | .eob => llCode 256 0
  | .len257 => llCode 257 0
  | .len258 => llCode 258 0
  | .len259 => llCode 259 0
  | .len260 => llCode 260 0
  | .len261 => llCode 261 0
  | .len262 => llCode 262 0
  | .len263 => llCode 263 0
  | .len264 => llCode 264 0
  | .len265 xv => llCode 265 xv.toNat
  | .len266 xv => llCode 266 xv.toNat
  | .len267 xv => llCode 267 xv.toNat
  | .len268 xv => llCode 268 xv.toNat
  | .len269 xv => llCode 269 xv.toNat
  | .len270 xv => llCode 270 xv.toNat
  | .len271 xv => llCode 271 xv.toNat
  | .len272 xv => llCode 272 xv.toNat
  | .len273 xv => llCode 273 xv.toNat
  | .len274 xv => llCode 274 xv.toNat
  | .len275 xv => llCode 275 xv.toNat
  | .len276 xv => llCode 276 xv.toNat
  | .len277 xv => llCode 277 xv.toNat
  | .len278 xv => llCode 278 xv.toNat
  | .len279 xv => llCode 279 xv.toNat
  | .len280 xv => llCode 280 xv.toNat
  | .len281 xv => llCode 281 xv.toNat
  | .len282 xv => llCode 282 xv.toNat
  | .len283 xv => llCode 283 xv.toNat
  | .len284 xv => llCode 284 xv.toNat
  | .len285 => llCode 285 0
  | .dist0 => dCode 0 0
  | .dist1 => dCode 1 0
  | .dist2 => dCode 2 0
  | .dist3 => dCode 3 0
  | .dist4 xv => dCode 4 xv.toNat
  | .dist5 xv => dCode 5 xv.toNat
  | .dist6 xv => dCode 6 xv.toNat
  | .dist7 xv => dCode 7 xv.toNat
  | .dist8 xv => dCode 8 xv.toNat
  | .dist9 xv => dCode 9 xv.toNat
  | .dist10 xv => dCode 10 xv.toNat
  | .dist11 xv => dCode 11 xv.toNat
  | .dist12 xv => dCode 12 xv.toNat
  | .dist13 xv => dCode 13 xv.toNat
  | .dist14 xv => dCode 14 xv.toNat
  | .dist15 xv => dCode 15 xv.toNat
  | .dist16 xv => dCode 16 xv.toNat
  | .dist17 xv => dCode 17 xv.toNat
  | .dist18 xv => dCode 18 xv.toNat
  | .dist19 xv => dCode 19 xv.toNat
  | .dist20 xv => dCode 20 xv.toNat
  | .dist21 xv => dCode 21 xv.toNat
  | .dist22 xv => dCode 22 xv.toNat
  | .dist23 xv => dCode 23 xv.toNat
  | .dist24 xv => dCode 24 xv.toNat
  | .dist25 xv => dCode 25 xv.toNat
  | .dist26 xv => dCode 26 xv.toNat
  | .dist27 xv => dCode 27 xv.toNat
  | .dist28 xv => dCode 28 xv.toNat
  | .dist29 xv => dCode 29 xv.toNat
  | .clLen0 => clCode 0 0
  | .clLen1 => clCode 1 0
  | .clLen2 => clCode 2 0
  | .clLen3 => clCode 3 0
  | .clLen4 => clCode 4 0
  | .clLen5 => clCode 5 0
  | .clLen6 => clCode 6 0
  | .clLen7 => clCode 7 0
  | .clLen8 => clCode 8 0
  | .clLen9 => clCode 9 0
  | .clLen10 => clCode 10 0
  | .clLen11 => clCode 11 0
  | .clLen12 => clCode 12 0
  | .clLen13 => clCode 13 0
  | .clLen14 => clCode 14 0
  | .clLen15 => clCode 15 0
  | .cl16 xv => clCode 16 xv.toNat
  | .cl17 xv => clCode 17 xv.toNat
  | .cl18 xv => clCode 18 xv.toNat
  | .blockFixed bfinal => bhCode 1 bfinal.toNat
  | .blockDynamic bfinal => bhCode 2 bfinal.toNat

/-! ## The opcode table's words

The table gives a row's bits but not the context that R106 reads them in, and its rows overlap
across formats (`NOP` and `LIT 0` are both the 16 bits 0; `DIST_2`, `CL_LEN_2` and `BLOCK_FIXED` are
all the 8 bits 2). A word alone is therefore read in the first context, in the order of the host
port and then of the stream's own grammar (header, tables, payload), in which it is an instruction.
DESIGN CHOICE (log 7). -/

/-- The format a table word of `nbits` bits is read in. -/
def tableFormat (nbits w : Nat) : Format :=
  if 9 ≤ nbits then
    match decode ⟨.cmd16, BitVec.ofNat 32 w⟩ with
    | .ok _ => .cmd16
    | .error _ =>
      match decode ⟨.ll9, BitVec.ofNat 32 w⟩ with
      | .ok _ => .ll9
      | .error _ => .cmd16
  else
    match decode ⟨.bh3, BitVec.ofNat 32 w⟩ with
    | .ok _ => .bh3
    | .error _ =>
      match decode ⟨.cl5, BitVec.ofNat 32 w⟩ with
      | .ok _ => .cl5
      | .error _ => .d5

/-- The encoded word a table word stands for. -/
def tableCode (nbits w : Nat) : Code := { fmt := tableFormat nbits w, bits := BitVec.ofNat 32 w }

/-- The instruction the decoder reads from a table word: bit 0 is the least significant bit of the
word, and every bit above `nbits` is 0. -/
def decodeTableWord (nbits w : Nat) : Option Instr :=
  if w < 2 ^ nbits then
    match decode (tableCode nbits w) with
    | .ok i => some i
    | .error _ => none
  else none

end Sys2Proof
end

