-- ==== Sys2Proof/Machine/State.lean ====
section
/-! DEFINITION. The state of the core as plain data (`spec/10_state.md` R20 to R36), the reasons a
step of the model can stop, and the state right after reset (R51). Beside the spec's own state stand
the model's: the last response word, the tables payload elements are written with, a counter for
free values, and the agents' turns. -/

namespace Sys2Proof.Machine

/-- The core agent's control state (R21). The codes 6 and 7 are never held. -/
inductive Phase where
  /-- The core encodes input positions, or writes the final block. -/
  | encode
  /-- A non-final block is full and waits to be written. -/
  | flush
  /-- The bits of a non-final block are moving to the output FIFO. -/
  | drain
  /-- The bits of the final block are moving to the output FIFO. -/
  | drainFinal
  /-- The whole stream has been moved to the output FIFO. -/
  | done
  /-- A fault stopped the core. -/
  | fault
  deriving DecidableEq, Repr, Inhabited

/-- The fault codes (R342); 9 to 255 are reserved and never raised. -/
inductive FaultCode where
  /-- 1: a PUSH after EOI (R303). -/
  | pushAfterEoi
  /-- 2: a second EOI (R304). -/
  | eoiTwice
  /-- 3: an illegal command word (R309). -/
  | illegalCmd
  /-- 4: ABORT, the host reports an input failure (R307). -/
  | inputAbort
  /-- 5: no swap partner in a length-limiting round (R190). -/
  | limitNoCandidate
  /-- 6: a frequency table with no used symbol (R187). -/
  | emptyAlphabet
  /-- 7: the input length would reach `2^POS_WIDTH` (R293). -/
  | positionOverflow
  /-- 8: `SYM` would exceed `MAX_BLOCK_SIZE + 2` entries (R348). -/
  | symbufOverflow
  deriving DecidableEq, Repr, Inhabited

/-- A Symbol of the block buffer (R27); EOB is never stored. -/
inductive Sym where
  /-- `LIT(b)`. -/
  | lit (b : Byte)
  /-- `LEN(sym, xv, xb)`, symbol 257 to 285. -/
  | len (sym xv xb : Nat)
  /-- `DIST(sym, xv, xb)`, symbol 0 to 29. -/
  | dist (sym xv xb : Nat)
  deriving DecidableEq, Repr, Inhabited

/-- An entry of the output FIFO (R31). -/
structure OutEntry where
  byte : Byte
  last : Bool
  deriving DecidableEq, Repr, Inhabited

/-- The block kinds the core writes (R240). -/
inductive BlockKind where
  | fixed
  | dynamic
  deriving DecidableEq, Repr, Inhabited

/-- Whose step is next (R79: the agents' steps interleave in any order). -/
inductive Turn where
  /-- The host agent issues a command word (R300). -/
  | cmd (w : CmdWord)
  /-- The core agent takes its enabled step, or none (R280, R288). -/
  | core
  /-- The reset input is asserted between two steps (R312). -/
  | rst
  /-- The block writer writes one stream element by itself. The spec writes elements only inside
  FLUSH and FINISH; the model can also run one alone, so that each row of the opcode table is an
  instruction that runs (DESIGN CHOICE, log 5). -/
  | elem (c : Code)
  deriving DecidableEq, Repr, Inhabited

/-- Why the model stops with a fault. A fault of the CORE is not one of these: it is a next state in
phase `fault` (R341). Each of these is raised only in a state that breaks R52 and no run reaches
(log 10). -/
inductive Fault where
  /-- ENCODE_STEP found a match length outside 3 to 258, where LenCode is not defined (R140). Safe. -/
  | lengthOutsideTable
  /-- ENCODE_STEP found a distance outside 1 to 32768, where DistCode is not defined (R142, R144):
  a prefix index with a position outside the window. Safe. -/
  | distanceOutsideTable
  deriving DecidableEq, Repr, Inhabited

/-- Why the model has no meaning for a step. -/
inductive Refusal where
  /-- An instruction without a meaning yet, raised by `exec`'s arm for it. Safe. -/
  | notModelled (mnemonic : String)
  /-- A step read the input store outside `WSTART <= q < R`. R72 asks for this refusal; raised by
  ENCODE_STEP, and only in a state that breaks R52 (3) or whose store lost a byte. Safe. -/
  | windowRead
  /-- The block writer's turn holds a word that is no element of its alphabet (R99, R101 to R104);
  raised by `step`. The core never emits one. Safe. -/
  | noElement (e : DecodeError)
  deriving DecidableEq, Repr

/-- The input store: the bytes by position, positions strictly rising (R25, R71). A position that
is not listed holds no byte. -/
abbrev Memory := List Host.Cell

/-- The prefix index: positions by key, most recent first (R26). Keys strictly rise, and a key
whose list is empty is not listed. -/
abbrev PrefixIndex := List (Key × List Nat)

/-- The state of the machine. -/
structure State where
  /-- `PHASE` (R21). -/
  phase : Phase
  /-- `P`, the encoding cursor (R22). -/
  p : Nat
  /-- `R`, the count of accepted input bytes (R23). -/
  r : Nat
  /-- `EOI` (R24). -/
  eoi : Bool
  /-- The input store, `IN[WSTART..R)` (R25). -/
  store : Memory
  /-- `PINDEX` (R26). -/
  pindex : PrefixIndex
  /-- `SYM`, the Symbols of the open block (R27). -/
  sym : List Sym
  /-- `SYMCOUNT` (R27). -/
  symcount : Word
  /-- `FREQ_LL` (R28). -/
  freqLL : Vector Word 286
  /-- `FREQ_D` (R28). -/
  freqD : Vector Word 30
  /-- The working state of a flush (R29). -/
  work : Work
  /-- `BITQ`, the pending bits, oldest first (R30). -/
  bitq : List Bool
  /-- `OQ`, the output FIFO, oldest first (R31). -/
  oq : List OutEntry
  /-- `ISIZE` (R32). -/
  isize : Word
  /-- `CRC` (R33). -/
  crc : Word
  /-- `BLOCKS` (R34). -/
  blocks : Word
  /-- `FAULTCODE` (R35). -/
  faultcode : Byte
  /-- The response word of the last command (R93). The model's own place for it (log 15). -/
  resp : Word
  /-- Which tables a payload element run by itself is written with. The model's own (log 5). -/
  kind : BlockKind
  /-- How many free values the model has drawn. The model's own (log 3). -/
  freeCtr : Nat
  /-- The turns to come; with none left the core agent moves. The model's own (log 8). -/
  turns : List Turn
  deriving DecidableEq, Repr

/-- The state right after reset (R51, R371). The working state and the model's own fields have no
reset value in the spec: zero, fixed tables, no turns (DESIGN CHOICE, log 2). -/
def State.reset : State :=
  { phase := .encode, p := 0, r := 0, eoi := false, store := [], pindex := [], sym := [],
    symcount := 0, freqLL := Vector.replicate 286 0, freqD := Vector.replicate 30 0,
    work := Work.zero, bitq := [], oq := [], isize := 0, crc := 0, blocks := 0, faultcode := 0,
    resp := 0, kind := .fixed, freeCtr := 0, turns := [] }

end Sys2Proof.Machine
end

