-- ==== Sys2Proof/Machine/Ops.lean ====
section
/-! DEFINITION. The named operations over the core's memories and registers: the input store
(R25, R72), the prefix index (R26, R151, R153), the bit queue (R270 to R275), the frequency tables
(R180, R181), taking a fault (R341), reset (R371), and the response word (R93). -/

namespace Sys2Proof.Machine

/-! ## Codes of the control state -/

/-- The 3-bit code of a phase (R21). -/
def Phase.code : Phase → BitVec 3
  | .encode     => 0
  | .flush      => 1
  | .drain      => 2
  | .drainFinal => 3
  | .done       => 4
  | .fault      => 5

/-- The 8-bit code of a fault (R342). -/
def FaultCode.code : FaultCode → Byte
  | .pushAfterEoi     => 1
  | .eoiTwice         => 2
  | .illegalCmd       => 3
  | .inputAbort       => 4
  | .limitNoCandidate => 5
  | .emptyAlphabet    => 6
  | .positionOverflow => 7
  | .symbufOverflow   => 8

/-! ## The input store -/

/-- The canonical form of the input store: positions strictly rising. No cell can equal what an
unlisted position reads as, since an unlisted position holds no byte. -/
abbrev Memory.wf (m : Memory) : Prop := (m.map Prod.fst).Pairwise (· < ·)

/-- What the store holds at a position; `none` where nothing is held (log 1). -/
def Memory.read : Memory → Nat → Option Byte
  | [], _ => none
  | (k, b) :: m, a => if k = a then some b else Memory.read m a

/-- Store a byte at a position. -/
def Memory.write : Memory → Nat → Byte → Memory
  | [], a, b => [(a, b)]
  | (k, c) :: m, a, b =>
    if a < k then (a, b) :: (k, c) :: m
    else if a = k then (a, b) :: m
    else (k, c) :: Memory.write m a b

/-- Let go of every position below `a` (R25: a byte leaves the window at its tail). -/
def Memory.dropBelow (m : Memory) (a : Nat) : Memory := m.filter fun c => decide (a ≤ c.1)

/-- The oldest window position for a cursor: `max(0, P - 32768)` (R25, R150). -/
def windowStart (p : Nat) : Nat :=
  if p ≤ Config.maxBackrefDist then 0 else p - Config.maxBackrefDist

/-- `WSTART` (R25). -/
def State.wstart (s : State) : Nat := windowStart s.p

/-- `WSIZE = P - WSTART` (R25). -/
def State.wsize (s : State) : Nat := s.p - s.wstart

/-- The bytes available from the cursor on, `R - P` (R156, R301). -/
def State.avail (s : State) : Nat := s.r - s.p

/-- `WinRead(q)`, defined for `WSTART <= q < R` (R72), the lower bound written `P <= q + 32768`. -/
def State.winRead (s : State) (q : Nat) : Option Byte :=
  if s.p ≤ q + Config.maxBackrefDist ∧ q < s.r then s.store.read q else none

/-- The index `q mod RING_SIZE` of a position in the hardware's ring buffer (R25). -/
def ringIndex (q : Nat) : Nat := q % Config.ringSize

/-- `KEY(q) = {IN[q], IN[q+1], IN[q+2]}` with `IN[q]` in bits 23:16 (R151). -/
def State.keyAt (s : State) (q : Nat) : Option Key :=
  match s.winRead q, s.winRead (q + 1), s.winRead (q + 2) with
  | some a, some b, some c => some (a ++ b ++ c)
  | _, _, _ => none

/-! ## The prefix index -/

/-- The canonical form of the prefix index: keys strictly rising, no empty list (R26). -/
abbrev PrefixIndex.wf (x : PrefixIndex) : Prop :=
  (x.map fun e => e.1.toNat).Pairwise (· < ·) ∧ ∀ e ∈ x, e.2 ≠ []

/-- The list of a key; an absent key has the empty list (R26). -/
def PrefixIndex.get : PrefixIndex → Key → List Nat
  | [], _ => []
  | (k, l) :: x, a => if k = a then l else PrefixIndex.get x a

/-- Set the list of a key; setting the empty list deletes the key (R153). -/
def PrefixIndex.put : PrefixIndex → Key → List Nat → PrefixIndex
  | [], a, l => if l = [] then [] else [(a, l)]
  | (k, m) :: x, a, l =>
    if a.toNat < k.toNat then (if l = [] then (k, m) :: x else (a, l) :: (k, m) :: x)
    else if a = k then (if l = [] then x else (a, l) :: x)
    else (k, m) :: PrefixIndex.put x a l

/-- Eviction: remove position `e` from its key's list if it is the last element there (R153). -/
def PrefixIndex.evict (x : PrefixIndex) (k : Key) (e : Nat) : PrefixIndex :=
  let l := x.get k
  if l.getLast? = some e then x.put k l.dropLast else x

/-- Registration: insert position `q` at the front of its key's list (R153). -/
def PrefixIndex.register (x : PrefixIndex) (k : Key) (q : Nat) : PrefixIndex :=
  x.put k (q :: x.get k)

/-! ## The frequency tables -/

/-- Add 1 to one entry of a frequency table (R180; u32 by R183). -/
def bump {n : Nat} (t : Vector Word n) (i : Nat) : Vector Word n :=
  t.setIfInBounds i (entry t i + 1)

/-- `RECORD(s, LL)` (R180). -/
def State.recordLL (s : State) (sym : Nat) : State := { s with freqLL := bump s.freqLL sym }

/-- `RECORD(s, D)` (R180). -/
def State.recordD (s : State) (sym : Nat) : State := { s with freqD := bump s.freqD sym }

/-- `RESET_FREQ()` (R181). -/
def State.resetFreq (s : State) : State :=
  { s with freqLL := Vector.replicate 286 0, freqD := Vector.replicate 30 0 }

/-! ## The block buffer -/

/-- Append one Symbol and count it (R27, R255, R282). -/
def State.appendSym (s : State) (e : Sym) : State :=
  { s with sym := s.sym ++ [e], symcount := s.symcount + 1 }

/-- The check of R348 (3): two more Symbols would exceed `MAX_BLOCK_SIZE + 2` entries. -/
def State.symbufFull (s : State) : Bool :=
  decide (Config.maxBlockSize + 2 < s.sym.length + 2)

/-! ## The bit queue -/

/-- The `n` low bits of `v`, least significant first (R270). -/
def fieldBits (v n : Nat) : List Bool := (List.range n).map fun i => v.testBit i

/-- An `n`-bit Huffman code, most significant bit first (R271). -/
def codeBits (c n : Nat) : List Bool := (fieldBits c n).reverse

/-- Append bits to `BITQ`. -/
def State.appendBits (s : State) (l : List Bool) : State := { s with bitq := s.bitq ++ l }

/-- `PutBits(v, n)` (R270). -/
def State.putBits (s : State) (v n : Nat) : State := s.appendBits (fieldBits v n)

/-- `PutCode(c, n)` (R271). -/
def State.putCode (s : State) (c n : Nat) : State := s.appendBits (codeBits c n)

/-- How many zero bits end a queue of `n` bits at a byte boundary (R274). -/
def padLength (n : Nat) : Nat := (8 - n % 8) % 8

/-- `PAD_TO_BYTE()` (R274). -/
def State.padToByte (s : State) : State :=
  s.appendBits (List.replicate (padLength s.bitq.length) false)

/-- The number `Σ t_i · 2^i` of bits `t_0, t_1, …` (R272). -/
def bitsValue : List Bool → Nat
  | [] => 0
  | b :: l => bitNat b + 2 * bitsValue l

/-- The byte of the first 8 bits of a queue (R272, R275). -/
def headByte (l : List Bool) : Byte := BitVec.ofNat 8 (bitsValue (l.take 8))

/-- The output FIFO has no room: `len(OQ) >= OQ_DEPTH` (R275). `OQ_DEPTH >= 1`, so an empty FIFO
has room. -/
def oqFull (n : Nat) : Bool := decide (0 < n) && decide (Config.oqDepth ≤ n)

/-! ## Free values -/

/-- Leave the working state of a flush unspecified (R29; log 3): a free value. -/
def State.freeWork (s : State) : State :=
  { s with work := Config.freeWork s.freeCtr, freeCtr := s.freeCtr + 1 }

/-! ## Response, fault entry and reset -/

/-- `respond(w)` (R10, R93). -/
def State.respond (s : State) (w : Word) : State := { s with resp := w }

/-- `raise Fault(code)`: fault entry, the core's only exception (R341). The code is kept, the core
stops, and output not yet popped and bits not yet moved are discarded. Every other element keeps
its value. There is no return from it (R345). -/
def State.raise (s : State) (c : FaultCode) : State :=
  { s with faultcode := c.code, phase := .fault, oq := [], bitq := [] }

/-- `raise Fault(code)` by a host command, which responds 0 (R341). -/
def State.raiseHost (s : State) (c : FaultCode) : State := (s.raise c).respond 0

/-- `RESET()` (R371): the reset state. The turns to come belong to the environment and stay, as
does the counter of free values drawn (log 9). -/
def State.doReset (s : State) : State :=
  { State.reset with freeCtr := s.freeCtr, turns := s.turns }

end Sys2Proof.Machine
end

