-- ==== Sys2Proof/Machine/ClEncoder.lean ====
section
/-! DEFINITION. The code-length alphabet encoder ENCODE_CL_STREAM (R220 to R225). -/

namespace Sys2Proof.Machine

/-- The maximal runs of a sequence, left to right: value and run length (R221). -/
def runsOf : List Nat → List (Nat × Nat)
  | [] => []
  | v :: rest =>
    match runsOf rest with
    | [] => [(v, 1)]
    | (w, k) :: more => if v = w then (w, k + 1) :: more else (v, 1) :: (w, k) :: more

/-- The zeros left after the chunks of 11 or more: one 17 for 3 to 10, else literal zeros (R222). -/
def zeroTail (r : Nat) : List ClSym :=
  if 3 ≤ r then [⟨17, r - 3, 3⟩] else List.replicate r ⟨0, 0, 0⟩

/-- A run of `r` zeros (R222): 18 for up to 138 of them while 11 or more are left. `n` bounds the
chunks. -/
def zeroRun : Nat → Nat → List ClSym
  | 0, r => zeroTail r
  | n + 1, r =>
    if 11 ≤ r then ⟨18, min r 138 - 11, 7⟩ :: zeroRun n (r - min r 138) else zeroTail r

/-- `r` repeats of a nonzero length `v` (R223): 16 for up to 6 of them while 3 or more are left,
then literals. `n` bounds the chunks. -/
def repeatRun : Nat → Nat → Nat → List ClSym
  | 0, v, r => List.replicate r ⟨v, 0, 0⟩
  | n + 1, v, r =>
    if 3 ≤ r then ⟨16, min r 6 - 3, 2⟩ :: repeatRun n v (r - min r 6)
    else List.replicate r ⟨v, 0, 0⟩

/-- The CL Symbols of one run (R222, R223). -/
def encodeRun (v run : Nat) : List ClSym :=
  if v = 0 then zeroRun run run else ⟨v, 0, 0⟩ :: repeatRun run v (run - 1)

/-- The `cls` of `ENCODE_CL_STREAM(lens)` (R220). -/
def encodeCl (lens : List Nat) : List ClSym := (runsOf lens).flatMap fun e => encodeRun e.1 e.2

/-- The `fcl` of `ENCODE_CL_STREAM`: how often each value 0 to 18 stands in a stream (R225). -/
def clFrequencies (cls : List ClSym) : List Nat :=
  (List.range 19).map fun v => (cls.map ClSym.v).count v

end Sys2Proof.Machine
end

