-- ==== Sys2Proof/Machine/Huffman.lean ====
section
/-! DEFINITION. Code lengths from frequencies (BUILD_LENGTHS, R184 to R187), the length limiter
(ENFORCE_MAX_LENGTH, R188 to R191), canonical codes (BUILD_CODES, R210), and the fixed tables
(R212, R241). -/

namespace Sys2Proof.Machine

/-! ## BUILD_LENGTHS -/

/-- A Huffman tree: leaves are symbols (R184). -/
inductive Tree where
  | leaf (sym : Nat)
  | node (left right : Tree)
  deriving DecidableEq, Repr, Inhabited

/-- A node of the merge queue (R184): its frequency, its creation number and its tree. -/
structure HuffNode where
  freq : Nat
  seq  : Nat
  tree : Tree
  deriving DecidableEq, Repr, Inhabited

/-- The extraction order: the least `(freq, seq)`, compared lexicographically (R184, R185). -/
def HuffNode.before (a b : HuffNode) : Bool :=
  decide (a.freq < b.freq) || (decide (a.freq = b.freq) && decide (a.seq < b.seq))

/-- Add a node to a queue kept in extraction order. -/
def addNode (x : HuffNode) : List HuffNode → List HuffNode
  | [] => [x]
  | y :: q => if x.before y then x :: y :: q else y :: addNode x q

/-- The symbols of nonzero frequency with their frequencies, in ascending order. -/
def usedSymbols (f : List Nat) : List (Nat × Nat) := f.zipIdx.filter fun e => decide (0 < e.1)

/-- The leaves, numbered by `seq` in ascending symbol order (R184, R185). -/
def leafNodes (f : List Nat) : List HuffNode :=
  (usedSymbols f).zipIdx.map fun e => { freq := e.1.1, seq := e.2, tree := .leaf e.1.2 }

/-- The leaves in extraction order. -/
def initialQueue (f : List Nat) : List HuffNode := (leafNodes f).foldr addNode []

/-- The merge loop (R184): while two nodes are left, the two least become one node of the next
creation number. `n` bounds the rounds. -/
def mergeNodes : Nat → Nat → List HuffNode → List HuffNode
  | n + 1, seq, x :: y :: q =>
    mergeNodes n (seq + 1)
      (addNode { freq := x.freq + y.freq, seq := seq, tree := .node x.tree y.tree } q)
  | _, _, q => q

/-- The leaves of a tree with their depths, the root at depth `d`. -/
def Tree.depths : Tree → Nat → List (Nat × Nat)
  | .leaf sym, d => [(sym, d)]
  | .node l r, d => l.depths (d + 1) ++ r.depths (d + 1)

/-- The depth a list of leaves gives a symbol; 0 for a symbol that is no leaf. -/
def depthOf (sym : Nat) : List (Nat × Nat) → Nat
  | [] => 0
  | (t, d) :: l => if t = sym then d else depthOf sym l

/-- The lengths a tree gives the symbols `0..n-1`: the edges from the root to each leaf, but 1 for a
tree of one leaf (R184, R186). -/
def Tree.lengths (t : Tree) (n : Nat) : List Nat :=
  match t with
  | .leaf sym => (List.range n).map fun s => if s = sym then 1 else 0
  | .node l r => (List.range n).map fun s => depthOf s ((Tree.node l r).depths 0)

/-- `BUILD_LENGTHS(f)` (R184); an empty alphabet raises EMPTY_ALPHABET (R187). -/
def buildLengths (f : List Nat) : Except FaultCode (List Nat) :=
  match mergeNodes (initialQueue f).length (initialQueue f).length (initialQueue f) with
  | [] => .error .emptyAlphabet
  | root :: _ => .ok (root.tree.lengths f.length)

/-! ## ENFORCE_MAX_LENGTH -/

/-- The greatest entry of a list, 0 for the empty one. -/
def maxLength (len : List Nat) : Nat := len.foldl max 0

/-- `argmin_s {s : cond}` (R10): the lowest index whose entry meets a condition. -/
def lowestIndex (cond : Nat → Nat → Bool) (len : List Nat) : Option Nat :=
  (List.range len.length).find? fun s => cond s (len.getD s 0)

/-- The greatest length below the limit among used symbols, 0 if there is none (R188). -/
def belowLimit (len : List Nat) (limit : Nat) : Nat :=
  maxLength (len.filter fun l => decide (l < limit))

/-- The swap of one round (R188): `C` goes to `l + 1`, `A` to `l + 1`, `B` to `M - 1`. -/
def swapLengths (len : List Nat) (m l a b c : Nat) : List Nat :=
  ((len.set c (l + 1)).set a (l + 1)).set b (m - 1)

/-- One round for a greatest length `m` above the limit (R188, R189); a missing partner `B` or
below-limit symbol `C` raises LIMIT_NO_CANDIDATE (R190). -/
def limitRound (len : List Nat) (limit m : Nat) : Except FaultCode (List Nat) :=
  match lowestIndex (fun _ x => decide (x = m)) len with
  | none => .error .limitNoCandidate
  | some a =>
    match lowestIndex (fun s x => decide (s ≠ a) && decide (x = m)) len with
    | none => .error .limitNoCandidate
    | some b =>
      let l := belowLimit len limit
      if l = 0 then .error .limitNoCandidate
      else
        match lowestIndex (fun _ x => decide (x = l)) len with
        | none => .error .limitNoCandidate
        | some c => .ok (swapLengths len m l a b c)

/-- The excess `Σ max(0, len[s] - limit)` (R191). Each round lowers it. -/
def excess (len : List Nat) (limit : Nat) : Nat := (len.map fun l => l - limit).sum

/-- The rounds of ENFORCE_MAX_LENGTH, at most `n` of them (R191). -/
def limitRounds : Nat → List Nat → Nat → Except FaultCode (List Nat)
  | 0, len, _ => .ok len
  | n + 1, len, limit =>
    if maxLength len ≤ limit then .ok len
    else
      match limitRound len limit (maxLength len) with
      | .error c => .error c
      | .ok len' => limitRounds n len' limit

/-- `ENFORCE_MAX_LENGTH(len, limit)` (R188). The excess bounds its rounds (R191). -/
def enforceMaxLength (len : List Nat) (limit : Nat) : Except FaultCode (List Nat) :=
  limitRounds (excess len limit) len limit

/-- `ENFORCE_MAX_LENGTH(BUILD_LENGTHS(f), limit)` (R192, R243). -/
def limitedLengths (f : List Nat) (limit : Nat) : Except FaultCode (List Nat) :=
  match buildLengths f with
  | .error c => .error c
  | .ok len => enforceMaxLength len limit

/-! ## BUILD_CODES -/

/-- `count[l]` of R210, with `count[0] = 0`. -/
def countLength (len : List Nat) (l : Nat) : Nat := if l = 0 then 0 else len.count l

/-- The first code of length `l` (R210); the loop starts from `c = 0`. -/
def firstCode (len : List Nat) : Nat → Nat
  | 0 => 0
  | l + 1 => (firstCode len l + countLength len l) * 2

/-- The assignment loop of R210: each used symbol takes the next code of its length. A symbol of
length 0 has no code; it is listed as 0 and never sent. -/
def assignCodes (next : List Nat) : List Nat → List Nat
  | [] => []
  | l :: rest =>
    if l = 0 then 0 :: assignCodes next rest
    else next.getD l 0 :: assignCodes (next.set l (next.getD l 0 + 1)) rest

/-- `BUILD_CODES(len)` (R210). -/
def buildCodes (len : List Nat) : List Nat :=
  assignCodes ((List.range 16).map (firstCode len)) len

/-! ## The fixed tables -/

/-- `FIXED_LEN_LL` (R241). -/
def fixedLenLL : List Nat :=
  List.replicate 144 8 ++ List.replicate 112 9 ++ List.replicate 24 7 ++ List.replicate 8 8

/-- `FIXED_LEN_D` (R241). -/
def fixedLenD : List Nat := List.replicate 30 5

/-- The fixed block's tables (R36, R212, R241). -/
def fixedTables : CodeTables :=
  { lenLL := packTable 4 288 fixedLenLL, codeLL := packTable 15 288 (buildCodes fixedLenLL),
    lenD := packTable 4 30 fixedLenD, codeD := packTable 15 30 (buildCodes fixedLenD) }

end Sys2Proof.Machine
end

