-- ==== Sys2Proof/Machine/Operands.lean ====
section
/-! DEFINITION. The symbol tables and the operand assembly of the stream's elements: LenCode and
DistCode (R140 to R144), and what a symbol with its extra value stands for (R101, R104). -/

namespace Sys2Proof.Machine

/-- A symbol with its extra value and how many bits that is sent in (R140, R142). -/
structure SymCode where
  sym : Nat
  xv  : Nat
  xb  : Nat
  deriving DecidableEq, Repr, Inhabited

/-- `LEN_BASE`, by `sym - 257` (R141). -/
def lenBase : List Nat :=
  [3, 4, 5, 6, 7, 8, 9, 10, 11, 13, 15, 17, 19, 23, 27, 31, 35, 43, 51, 59, 67, 83, 99, 115, 131,
   163, 195, 227, 258]

/-- `LEN_EXTRA`, by `sym - 257` (R141). -/
def lenExtra : List Nat :=
  [0, 0, 0, 0, 0, 0, 0, 0, 1, 1, 1, 1, 2, 2, 2, 2, 3, 3, 3, 3, 4, 4, 4, 4, 5, 5, 5, 5, 0]

/-- `DIST_BASE`, by symbol (R143). -/
def distBase : List Nat :=
  [1, 2, 3, 4, 5, 7, 9, 13, 17, 25, 33, 49, 65, 97, 129, 193, 257, 385, 513, 769, 1025, 1537, 2049,
   3073, 4097, 6145, 8193, 12289, 16385, 24577]

/-- `DIST_EXTRA`, by symbol (R143). -/
def distExtra : List Nat :=
  [0, 0, 0, 0, 1, 1, 2, 2, 3, 3, 4, 4, 5, 5, 6, 6, 7, 7, 8, 8, 9, 9, 10, 10, 11, 11, 12, 12, 13, 13]

/-- The largest `i < n` with `bases[i] <= v` (R140, R142). -/
def largestBase (bases : List Nat) (n v : Nat) : Option Nat :=
  ((List.range n).filter fun i => decide (bases.getD i 0 ≤ v)).getLast?

/-- `LenCode(L)` for `3 <= L <= 258` (R140); outside that domain it has no value. -/
def lenCode (l : Nat) : Option SymCode :=
  if l < Config.minMatch ∨ Config.maxMatch < l then none
  else if l = Config.maxMatch then some ⟨285, 0, 0⟩
  else (largestBase lenBase 28 l).map fun i => ⟨257 + i, l - lenBase.getD i 0, lenExtra.getD i 0⟩

/-- `DistCode(D)` for `1 <= D <= 32768` (R142); outside that domain, distance 0 included (R144), it
has no value. -/
def distCode (d : Nat) : Option SymCode :=
  if d < 1 ∨ Config.maxBackrefDist < d then none
  else (largestBase distBase 30 d).map fun i => ⟨i, d - distBase.getD i 0, distExtra.getD i 0⟩

/-- The match length `LEN_BASE[sym] + xv` a length symbol stands for (R104). -/
def lengthOf (sym xv : Nat) : Nat := lenBase.getD (sym - 257) 0 + xv

/-- The distance `DIST_BASE[sym] + xv` a distance symbol stands for (R104). -/
def distanceOf (sym xv : Nat) : Nat := distBase.getD sym 0 + xv

/-- The element word of a Symbol of the block buffer (R102, R103). -/
def Sym.code : Sym → Code
  | .lit b => llCode b.toNat 0
  | .len sym xv _ => llCode sym xv
  | .dist sym xv _ => dCode sym xv

/-- The code lengths a CL Symbol stands for, given the lengths before it, most recent first
(R101): one length, copies of the previous one, or zeros. -/
def ClSym.lengths (e : ClSym) (before : List Nat) : List Nat :=
  if e.v ≤ 15 then [e.v]
  else if e.v = 16 then List.replicate (3 + e.xv) (before.headD 0)
  else if e.v = 17 then List.replicate (3 + e.xv) 0
  else List.replicate (11 + e.xv) 0

/-- Expand a CL symbol stream, after the lengths `before` (most recent first): R101, R226 (a). -/
def expandCl : List ClSym → List Nat → List Nat
  | [], _ => []
  | e :: rest, before =>
    let l := ClSym.lengths e before
    l ++ expandCl rest (l.reverse ++ before)

end Sys2Proof.Machine
end

