-- ==== Sys2Proof/Machine/BlockWriter.lean ====
section
/-! DEFINITION. The block writer: the tables of a dynamic block (R243 to R250), its header (R251), the
payload (R252), the two writers (R242, R251) and AFTER_BLOCK (R256). What a writer appends is given
as a list of bits, the PutBits and PutCode of its rule one after another. -/

namespace Sys2Proof.Machine

/-! ## BUILD_DYNAMIC_TABLES -/

/-- `lastnz(t) + 1`, and 0 for a table of zeros (R243). -/
def usedLength : List Nat → Nat
  | [] => 0
  | x :: t => if usedLength t = 0 then (if x = 0 then 0 else 1) else usedLength t + 1

/-- `FREQ_LL` with EOB's frequency forced to at least 1 (R244). -/
def forceEob (f : List Nat) : List Nat := f.set 256 (max (f.getD 256 0) 1)

/-- `FREQ_D`, with distance symbol 0 forced to 1 when no distance was used (R245). -/
def forceDistance (f : List Nat) : List Nat :=
  if f.all fun x => decide (x = 0) then f.set 0 1 else f

/-- The dynamic tables that follow from the LL and distance code lengths (R243, R246 to R250). -/
def tablesOfLengths (lenLL lenD : List Nat) : Except FaultCode Work :=
  let nLL := max (usedLength lenLL) 257
  let nD := max (usedLength lenD) 1
  let cls1 := encodeCl ((lenLL ++ [0, 0]).take nLL)
  let cls2 := encodeCl (lenD.take nD)
  let fCL := List.zipWith (· + ·) (clFrequencies cls1) (clFrequencies cls2)
  match limitedLengths fCL Config.maxClCodeLen with
  | .error c => .error c
  | .ok lenCL =>
    let perm := Config.clOrder.map fun i => lenCL.getD i 0
    .ok {
      freqCL := packTable 32 19 fCL
      lenLL := packTable 4 288 (lenLL ++ [0, 0])
      lenD := packTable 4 30 lenD
      lenCL := packTable 4 19 lenCL
      codeLL := packTable 15 288 (buildCodes (lenLL ++ [0, 0]))
      codeD := packTable 15 30 (buildCodes lenD)
      codeCL := packTable 15 19 (buildCodes lenCL)
      cls := cls1 ++ cls2
      hlit := BitVec.ofNat 5 (nLL - 257)
      hdist := BitVec.ofNat 5 (nD - 1)
      hclen := BitVec.ofNat 4 (max (usedLength perm) 4 - 4)
      perm := packTable 3 19 perm }

/-- `BUILD_DYNAMIC_TABLES()` (R243), from the two frequency tables. -/
def buildDynamicTables (freqLL : Vector Word 286) (freqD : Vector Word 30) :
    Except FaultCode Work :=
  match limitedLengths (forceEob (tableNats freqLL)) Config.maxCodeLen with
  | .error c => .error c
  | .ok lenLL =>
    match limitedLengths (forceDistance (tableNats freqD)) Config.maxCodeLen with
    | .error c => .error c
    | .ok lenD => tablesOfLengths lenLL lenD

/-! ## Bits of the elements -/

/-- A literal/length symbol and its extra bits (R252, R105). -/
def llBits (t : CodeTables) (sym xv xb : Nat) : List Bool :=
  codeBits (entry t.codeLL sym).toNat (entry t.lenLL sym).toNat ++ fieldBits xv xb

/-- A distance symbol and its extra bits (R252, R105). -/
def dBits (t : CodeTables) (sym xv xb : Nat) : List Bool :=
  codeBits (entry t.codeD sym).toNat (entry t.lenD sym).toNat ++ fieldBits xv xb

/-- A CL symbol and its extra bits (R251, R101). -/
def clBits (w : Work) (sym xv xb : Nat) : List Bool :=
  codeBits (entry w.codeCL sym).toNat (entry w.lenCL sym).toNat ++ fieldBits xv xb

/-- A Symbol of the block buffer (R252). -/
def symBits (t : CodeTables) : Sym → List Bool
  | .lit b => llBits t b.toNat 0 0
  | .len sym xv xb => llBits t sym xv xb
  | .dist sym xv xb => dBits t sym xv xb

/-- The bits of `WRITE_PAYLOAD` (R252): each Symbol in order, then EOB. -/
def payloadBits (t : CodeTables) (sym : List Sym) : List Bool :=
  sym.flatMap (symBits t) ++ llBits t 256 0 0

/-- The bits of a block header: `BFINAL` (1 bit) and `BTYPE` (2 bits) (R98). -/
def headerBits (bfinal btype : Nat) : List Bool := fieldBits bfinal 1 ++ fieldBits btype 2

/-- The bits of a dynamic block after `BTYPE` and before its payload (R251). -/
def tableBits (w : Work) : List Bool :=
  fieldBits w.hlit.toNat 5 ++ fieldBits w.hdist.toNat 5 ++ fieldBits w.hclen.toNat 4 ++
    ((List.range (w.hclen.toNat + 4)).flatMap fun i => fieldBits (entry w.perm i).toNat 3) ++
    w.cls.flatMap fun e => clBits w e.v e.xv e.xb

/-! ## The writers -/

/-- The code tables payload elements are written with: those of the block kind last written. -/
def State.payloadTables (s : State) : CodeTables :=
  match s.kind with
  | .fixed => fixedTables
  | .dynamic => s.work.tables

/-- Write one literal/length element (R252). -/
def State.putLL (s : State) (sym xv xb : Nat) : State :=
  s.appendBits (llBits s.payloadTables sym xv xb)

/-- Write one distance element (R252). -/
def State.putD (s : State) (sym xv xb : Nat) : State :=
  s.appendBits (dBits s.payloadTables sym xv xb)

/-- Write one code-length element (R251). -/
def State.putCL (s : State) (sym xv xb : Nat) : State :=
  s.appendBits (clBits s.work sym xv xb)

/-- `WRITE_PAYLOAD` with the code tables `t` (R252). -/
def State.writePayload (s : State) (t : CodeTables) : State := s.appendBits (payloadBits t s.sym)

/-- `WRITE_FIXED_BLOCK(final)` (R242). -/
def State.writeFixedBlock (s : State) (bfinal : BitVec 1) : State :=
  ({ s with kind := .fixed }.appendBits (headerBits bfinal.toNat 1)).writePayload fixedTables

/-- What WRITE_DYNAMIC_BLOCK writes once its tables are `w` (R251). -/
def State.writeDynamicWith (s : State) (bfinal : BitVec 1) (w : Work) : State :=
  ({ s with kind := .dynamic, work := w }.appendBits
    (headerBits bfinal.toNat 2 ++ tableBits w)).writePayload w.tables

/-- `WRITE_DYNAMIC_BLOCK(final)` (R251); the faults are those of R243. -/
def State.writeDynamicBlock (s : State) (bfinal : BitVec 1) : Except FaultCode State :=
  match buildDynamicTables s.freqLL s.freqD with
  | .error c => .error c
  | .ok w => .ok (s.writeDynamicWith bfinal w)

/-- `AFTER_BLOCK()` (R256). -/
def State.afterBlock (s : State) : State :=
  { { s with sym := [], symcount := 0 }.resetFreq with blocks := s.blocks + 1 }

end Sys2Proof.Machine
end

