-- ==== Sys2Proof/Machine/Blocks.lean ====
section
/-! DEFINITION. The two block elements (R98, R240): a whole fixed or dynamic block of the open block's
Symbols, header first. -/

namespace Sys2Proof.Machine

/-- A fixed block: `WRITE_FIXED_BLOCK(BFINAL)` (R242). -/
def execBlockFixed (bfinal : BitVec 1) (s : State) : Host.Outcome State Fault Refusal :=
  .next (s.writeFixedBlock bfinal)

/-- A dynamic block: `WRITE_DYNAMIC_BLOCK(BFINAL)` (R251), or the fault its tables raise (R243). -/
def execBlockDynamic (bfinal : BitVec 1) (s : State) : Host.Outcome State Fault Refusal :=
  match s.writeDynamicBlock bfinal with
  | .error c => .next (s.raise c)
  | .ok s' => .next s'

end Sys2Proof.Machine
end

