-- ==== Sys2Proof/Machine/ClSymbols.lean ====
section
/-! DEFINITION. The code-length elements (R101, R251): each CL symbol writes its Huffman code and then
its extra bits, with the block's CL code; one meaning each. -/

namespace Sys2Proof.Machine

/-- CL symbol 0 (R101, R222). -/
def execClLen0 (s : State) : Host.Outcome State Fault Refusal := .next (s.putCL 0 0 0)

/-- CL symbol 1 (R101, R223). -/
def execClLen1 (s : State) : Host.Outcome State Fault Refusal := .next (s.putCL 1 0 0)

/-- CL symbol 2 (R101, R223). -/
def execClLen2 (s : State) : Host.Outcome State Fault Refusal := .next (s.putCL 2 0 0)

/-- CL symbol 3 (R101, R223). -/
def execClLen3 (s : State) : Host.Outcome State Fault Refusal := .next (s.putCL 3 0 0)

/-- CL symbol 4 (R101, R223). -/
def execClLen4 (s : State) : Host.Outcome State Fault Refusal := .next (s.putCL 4 0 0)

/-- CL symbol 5 (R101, R223). -/
def execClLen5 (s : State) : Host.Outcome State Fault Refusal := .next (s.putCL 5 0 0)

/-- CL symbol 6 (R101, R223). -/
def execClLen6 (s : State) : Host.Outcome State Fault Refusal := .next (s.putCL 6 0 0)

/-- CL symbol 7 (R101, R223). -/
def execClLen7 (s : State) : Host.Outcome State Fault Refusal := .next (s.putCL 7 0 0)

/-- CL symbol 8 (R101, R223). -/
def execClLen8 (s : State) : Host.Outcome State Fault Refusal := .next (s.putCL 8 0 0)

/-- CL symbol 9 (R101, R223). -/
def execClLen9 (s : State) : Host.Outcome State Fault Refusal := .next (s.putCL 9 0 0)

/-- CL symbol 10 (R101, R223). -/
def execClLen10 (s : State) : Host.Outcome State Fault Refusal := .next (s.putCL 10 0 0)

/-- CL symbol 11 (R101, R223). -/
def execClLen11 (s : State) : Host.Outcome State Fault Refusal := .next (s.putCL 11 0 0)

/-- CL symbol 12 (R101, R223). -/
def execClLen12 (s : State) : Host.Outcome State Fault Refusal := .next (s.putCL 12 0 0)

/-- CL symbol 13 (R101, R223). -/
def execClLen13 (s : State) : Host.Outcome State Fault Refusal := .next (s.putCL 13 0 0)

/-- CL symbol 14 (R101, R223). -/
def execClLen14 (s : State) : Host.Outcome State Fault Refusal := .next (s.putCL 14 0 0)

/-- CL symbol 15 (R101, R223). -/
def execClLen15 (s : State) : Host.Outcome State Fault Refusal := .next (s.putCL 15 0 0)

/-- CL symbol 16 with its 2 extra bits (R101, R223). -/
def execCl16 (xv : BitVec 2) (s : State) : Host.Outcome State Fault Refusal :=
  .next (s.putCL 16 xv.toNat 2)

/-- CL symbol 17 with its 3 extra bits (R101, R222). -/
def execCl17 (xv : BitVec 3) (s : State) : Host.Outcome State Fault Refusal :=
  .next (s.putCL 17 xv.toNat 3)

/-- CL symbol 18 with its 7 extra bits (R101, R222). -/
def execCl18 (xv : BitVec 7) (s : State) : Host.Outcome State Fault Refusal :=
  .next (s.putCL 18 xv.toNat 7)

end Sys2Proof.Machine
end

