-- ==== Sys2Proof/Machine/Flags.lean ====
section
/-! DEFINITION. The status flags, each a function of the state computed at each read (R38, R40), and
the register map READ_REG reads (R39 to R49). -/

namespace Sys2Proof.Machine

/-- The lookahead is full: `R - P >= LA_CAP` (R301, R303). `LA_CAP >= 260`, so fewer buffered bytes
than that are never full. -/
def lookaheadFull (n : Nat) : Bool := decide (260 ≤ n) && decide (Config.laCap ≤ n)

/-- Counting one more byte would reach `2^POS_WIDTH` (R293, R303). `POS_WIDTH >= 33`, so no count
below `2^33` does. -/
def positionLimit (r : Nat) : Bool := decide (2 ^ 33 ≤ r + 1) && decide (r + 1 = 2 ^ Config.posWidth)

/-- `IN_READY`, STATUS bit 0 (R301, R40). -/
def State.inReady (s : State) : Bool :=
  decide (s.phase ≠ .fault) && !s.eoi && !lookaheadFull s.avail

/-- `OUT_VALID`, STATUS bit 1 (R40). -/
def State.outValid (s : State) : Bool := decide (0 < s.oq.length)

/-- `EOI_SEEN`, STATUS bit 2 (R40). -/
def State.eoiSeen (s : State) : Bool := s.eoi

/-- `DONE`, STATUS bit 3 (R40). -/
def State.doneFlag (s : State) : Bool := decide (s.phase = .done)

/-- `FAULT`, STATUS bit 4 (R40). -/
def State.faultFlag (s : State) : Bool := decide (s.phase = .fault)

/-- The STATUS register: bits 31:11 reserved, 10:8 `PHASE`, 7:5 reserved, then `FAULT`, `DONE`,
`EOI_SEEN`, `OUT_VALID`, `IN_READY` in bits 4 to 0 (R40). -/
def State.status (s : State) : Word :=
  0#21 ++ s.phase.code ++ 0#3 ++ BitVec.ofBool s.faultFlag ++ BitVec.ofBool s.doneFlag ++
    BitVec.ofBool s.eoiSeen ++ BitVec.ofBool s.outValid ++ BitVec.ofBool s.inReady

/-- `REG(idx)`, the register map (R39); the reserved indices read 0 (R49). -/
def State.readReg (s : State) (idx : Byte) : Word :=
  match idx.toNat with
  | 0 => s.status                       -- STATUS (R40)
  | 1 => s.isize                        -- ISIZE (R41)
  | 2 => s.crc                          -- CRC (R42)
  | 3 => s.symcount                     -- SYMCOUNT (R43)
  | 4 => s.blocks                       -- BLOCKS (R44)
  | 5 => Config.coreId                  -- ID (R45)
  | 6 => BitVec.ofNat 32 s.p            -- CURSOR (R46)
  | 7 => s.faultcode.setWidth 32        -- FAULTCODE (R47)
  | 8 => BitVec.ofNat 32 s.oq.length    -- OQ_COUNT (R48)
  | _ => 0

end Sys2Proof.Machine
end

