-- ==== Sys2Proof/Machine/Commands.lean ====
section
/-! DEFINITION. The host's commands (R302 to R308), one meaning each. Each command is one atomic step
that leaves its response in `resp` (R300, R93). -/

namespace Sys2Proof.Machine

/-- An accepted PUSH: the byte becomes `IN[R]`, and `R`, `CRC` and `ISIZE` follow (R303, R314, R315). -/
def State.acceptByte (s : State) (b : Byte) : State :=
  { s with
    store := s.store.write s.r b
    r := s.r + 1
    crc := Config.crcStep b s.crc
    isize := s.isize + 1
    resp := 1 }

/-- `NOP` (R302). -/
def execNop (s : State) : Host.Outcome State Fault Refusal := .next (s.respond 0)

/-- `PUSH b` (R303), its checks in the order of R346. -/
def execPush (b : Byte) (s : State) : Host.Outcome State Fault Refusal :=
  if s.phase = .fault then .next (s.respond 0)
  else if s.eoi = true then .next (s.raiseHost .pushAfterEoi)
  else if lookaheadFull s.avail = true then .next (s.respond 0)
  else if positionLimit s.r = true then .next (s.raiseHost .positionOverflow)
  else .next (s.acceptByte b)

/-- `EOI` (R304). -/
def execEoi (s : State) : Host.Outcome State Fault Refusal :=
  if s.phase = .fault then .next (s.respond 0)
  else if s.eoi = true then .next (s.raiseHost .eoiTwice)
  else .next ({ s with eoi := true }.respond 0)

/-- The POP response: `BYTE` in bits 7:0, `VALID` in bit 8, `LAST` in bit 9 (R93, R305). -/
def popResponse (e : OutEntry) : Word := 0#22 ++ BitVec.ofBool e.last ++ 1#1 ++ e.byte

/-- `POP` (R305). -/
def execPop (s : State) : Host.Outcome State Fault Refusal :=
  match s.oq with
  | [] => .next (s.respond 0)
  | e :: rest => .next ({ s with oq := rest }.respond (popResponse e))

/-- `READ_REG idx` (R306): no effect but the response (R50). -/
def execReadReg (idx : Byte) (s : State) : Host.Outcome State Fault Refusal :=
  .next (s.respond (s.readReg idx))

/-- `ABORT` (R307). -/
def execAbort (s : State) : Host.Outcome State Fault Refusal :=
  if s.phase = .fault then .next (s.respond 0) else .next (s.raiseHost .inputAbort)

/-- `SOFT_RESET` (R308): the reset state, and response 0. -/
def execSoftReset (s : State) : Host.Outcome State Fault Refusal := .next (s.doReset.respond 0)

/-- `ILLEGAL()` (R309), the meaning of every illegal command word (R94). -/
def State.illegal (s : State) : State :=
  if s.phase = .fault then s.respond 0 else s.raiseHost .illegalCmd

end Sys2Proof.Machine
end

