-- ==== Sys2Proof/Machine/Payload.lean ====
section
/-! DEFINITION. The payload elements (R102 to R105, R252): a literal, the length and distance symbols
and end of block. Each writes its Huffman code, most significant bit first, and then its extra bits,
least significant first, with the payload's code tables; one meaning each. -/

namespace Sys2Proof.Machine

/-- A literal byte is its LL code (R252). -/
def execLit (b : Byte) (s : State) : Host.Outcome State Fault Refusal := .next (s.putLL b.toNat 0 0)

/-- End of block is the LL code of symbol 256 (R252). -/
def execEob (s : State) : Host.Outcome State Fault Refusal := .next (s.putLL 256 0 0)

/-- Length symbol 257: length 3 (R140, R141). -/
def execLen257 (s : State) : Host.Outcome State Fault Refusal :=
  .next (s.putLL 257 0 0)

/-- Length symbol 258: length 4 (R140, R141). -/
def execLen258 (s : State) : Host.Outcome State Fault Refusal :=
  .next (s.putLL 258 0 0)

/-- Length symbol 259: length 5 (R140, R141). -/
def execLen259 (s : State) : Host.Outcome State Fault Refusal :=
  .next (s.putLL 259 0 0)

/-- Length symbol 260: length 6 (R140, R141). -/
def execLen260 (s : State) : Host.Outcome State Fault Refusal :=
  .next (s.putLL 260 0 0)

/-- Length symbol 261: length 7 (R140, R141). -/
def execLen261 (s : State) : Host.Outcome State Fault Refusal :=
  .next (s.putLL 261 0 0)

/-- Length symbol 262: length 8 (R140, R141). -/
def execLen262 (s : State) : Host.Outcome State Fault Refusal :=
  .next (s.putLL 262 0 0)

/-- Length symbol 263: length 9 (R140, R141). -/
def execLen263 (s : State) : Host.Outcome State Fault Refusal :=
  .next (s.putLL 263 0 0)

/-- Length symbol 264: length 10 (R140, R141). -/
def execLen264 (s : State) : Host.Outcome State Fault Refusal :=
  .next (s.putLL 264 0 0)

/-- Length symbol 265: lengths 11 to 12 (R140, R141). -/
def execLen265 (xv : BitVec 1) (s : State) : Host.Outcome State Fault Refusal :=
  .next (s.putLL 265 xv.toNat 1)

/-- Length symbol 266: lengths 13 to 14 (R140, R141). -/
def execLen266 (xv : BitVec 1) (s : State) : Host.Outcome State Fault Refusal :=
  .next (s.putLL 266 xv.toNat 1)

/-- Length symbol 267: lengths 15 to 16 (R140, R141). -/
def execLen267 (xv : BitVec 1) (s : State) : Host.Outcome State Fault Refusal :=
  .next (s.putLL 267 xv.toNat 1)

/-- Length symbol 268: lengths 17 to 18 (R140, R141). -/
def execLen268 (xv : BitVec 1) (s : State) : Host.Outcome State Fault Refusal :=
  .next (s.putLL 268 xv.toNat 1)

/-- Length symbol 269: lengths 19 to 22 (R140, R141). -/
def execLen269 (xv : BitVec 2) (s : State) : Host.Outcome State Fault Refusal :=
  .next (s.putLL 269 xv.toNat 2)

/-- Length symbol 270: lengths 23 to 26 (R140, R141). -/
def execLen270 (xv : BitVec 2) (s : State) : Host.Outcome State Fault Refusal :=
  .next (s.putLL 270 xv.toNat 2)

/-- Length symbol 271: lengths 27 to 30 (R140, R141). -/
def execLen271 (xv : BitVec 2) (s : State) : Host.Outcome State Fault Refusal :=
  .next (s.putLL 271 xv.toNat 2)

/-- Length symbol 272: lengths 31 to 34 (R140, R141). -/
def execLen272 (xv : BitVec 2) (s : State) : Host.Outcome State Fault Refusal :=
  .next (s.putLL 272 xv.toNat 2)

/-- Length symbol 273: lengths 35 to 42 (R140, R141). -/
def execLen273 (xv : BitVec 3) (s : State) : Host.Outcome State Fault Refusal :=
  .next (s.putLL 273 xv.toNat 3)

/-- Length symbol 274: lengths 43 to 50 (R140, R141). -/
def execLen274 (xv : BitVec 3) (s : State) : Host.Outcome State Fault Refusal :=
  .next (s.putLL 274 xv.toNat 3)

/-- Length symbol 275: lengths 51 to 58 (R140, R141). -/
def execLen275 (xv : BitVec 3) (s : State) : Host.Outcome State Fault Refusal :=
  .next (s.putLL 275 xv.toNat 3)

/-- Length symbol 276: lengths 59 to 66 (R140, R141). -/
def execLen276 (xv : BitVec 3) (s : State) : Host.Outcome State Fault Refusal :=
  .next (s.putLL 276 xv.toNat 3)

/-- Length symbol 277: lengths 67 to 82 (R140, R141). -/
def execLen277 (xv : BitVec 4) (s : State) : Host.Outcome State Fault Refusal :=
  .next (s.putLL 277 xv.toNat 4)

/-- Length symbol 278: lengths 83 to 98 (R140, R141). -/
def execLen278 (xv : BitVec 4) (s : State) : Host.Outcome State Fault Refusal :=
  .next (s.putLL 278 xv.toNat 4)

/-- Length symbol 279: lengths 99 to 114 (R140, R141). -/
def execLen279 (xv : BitVec 4) (s : State) : Host.Outcome State Fault Refusal :=
  .next (s.putLL 279 xv.toNat 4)

/-- Length symbol 280: lengths 115 to 130 (R140, R141). -/
def execLen280 (xv : BitVec 4) (s : State) : Host.Outcome State Fault Refusal :=
  .next (s.putLL 280 xv.toNat 4)

/-- Length symbol 281: lengths 131 to 162 (R140, R141). -/
def execLen281 (xv : BitVec 5) (s : State) : Host.Outcome State Fault Refusal :=
  .next (s.putLL 281 xv.toNat 5)

/-- Length symbol 282: lengths 163 to 194 (R140, R141). -/
def execLen282 (xv : BitVec 5) (s : State) : Host.Outcome State Fault Refusal :=
  .next (s.putLL 282 xv.toNat 5)

/-- Length symbol 283: lengths 195 to 226 (R140, R141). -/
def execLen283 (xv : BitVec 5) (s : State) : Host.Outcome State Fault Refusal :=
  .next (s.putLL 283 xv.toNat 5)

/-- Length symbol 284: lengths 227 to 257 (R140, R141). -/
def execLen284 (xv : BitVec 5) (s : State) : Host.Outcome State Fault Refusal :=
  .next (s.putLL 284 xv.toNat 5)

/-- Length symbol 285: length 258 (R140, R141). -/
def execLen285 (s : State) : Host.Outcome State Fault Refusal :=
  .next (s.putLL 285 0 0)

/-- Distance symbol 0: distance 1 (R142, R143). -/
def execDist0 (s : State) : Host.Outcome State Fault Refusal :=
  .next (s.putD 0 0 0)

/-- Distance symbol 1: distance 2 (R142, R143). -/
def execDist1 (s : State) : Host.Outcome State Fault Refusal :=
  .next (s.putD 1 0 0)

/-- Distance symbol 2: distance 3 (R142, R143). -/
def execDist2 (s : State) : Host.Outcome State Fault Refusal :=
  .next (s.putD 2 0 0)

/-- Distance symbol 3: distance 4 (R142, R143). -/
def execDist3 (s : State) : Host.Outcome State Fault Refusal :=
  .next (s.putD 3 0 0)

/-- Distance symbol 4: distances 5 to 6 (R142, R143). -/
def execDist4 (xv : BitVec 1) (s : State) : Host.Outcome State Fault Refusal :=
  .next (s.putD 4 xv.toNat 1)

/-- Distance symbol 5: distances 7 to 8 (R142, R143). -/
def execDist5 (xv : BitVec 1) (s : State) : Host.Outcome State Fault Refusal :=
  .next (s.putD 5 xv.toNat 1)

/-- Distance symbol 6: distances 9 to 12 (R142, R143). -/
def execDist6 (xv : BitVec 2) (s : State) : Host.Outcome State Fault Refusal :=
  .next (s.putD 6 xv.toNat 2)

/-- Distance symbol 7: distances 13 to 16 (R142, R143). -/
def execDist7 (xv : BitVec 2) (s : State) : Host.Outcome State Fault Refusal :=
  .next (s.putD 7 xv.toNat 2)

/-- Distance symbol 8: distances 17 to 24 (R142, R143). -/
def execDist8 (xv : BitVec 3) (s : State) : Host.Outcome State Fault Refusal :=
  .next (s.putD 8 xv.toNat 3)

/-- Distance symbol 9: distances 25 to 32 (R142, R143). -/
def execDist9 (xv : BitVec 3) (s : State) : Host.Outcome State Fault Refusal :=
  .next (s.putD 9 xv.toNat 3)

/-- Distance symbol 10: distances 33 to 48 (R142, R143). -/
def execDist10 (xv : BitVec 4) (s : State) : Host.Outcome State Fault Refusal :=
  .next (s.putD 10 xv.toNat 4)

/-- Distance symbol 11: distances 49 to 64 (R142, R143). -/
def execDist11 (xv : BitVec 4) (s : State) : Host.Outcome State Fault Refusal :=
  .next (s.putD 11 xv.toNat 4)

/-- Distance symbol 12: distances 65 to 96 (R142, R143). -/
def execDist12 (xv : BitVec 5) (s : State) : Host.Outcome State Fault Refusal :=
  .next (s.putD 12 xv.toNat 5)

/-- Distance symbol 13: distances 97 to 128 (R142, R143). -/
def execDist13 (xv : BitVec 5) (s : State) : Host.Outcome State Fault Refusal :=
  .next (s.putD 13 xv.toNat 5)

/-- Distance symbol 14: distances 129 to 192 (R142, R143). -/
def execDist14 (xv : BitVec 6) (s : State) : Host.Outcome State Fault Refusal :=
  .next (s.putD 14 xv.toNat 6)

/-- Distance symbol 15: distances 193 to 256 (R142, R143). -/
def execDist15 (xv : BitVec 6) (s : State) : Host.Outcome State Fault Refusal :=
  .next (s.putD 15 xv.toNat 6)

/-- Distance symbol 16: distances 257 to 384 (R142, R143). -/
def execDist16 (xv : BitVec 7) (s : State) : Host.Outcome State Fault Refusal :=
  .next (s.putD 16 xv.toNat 7)

/-- Distance symbol 17: distances 385 to 512 (R142, R143). -/
def execDist17 (xv : BitVec 7) (s : State) : Host.Outcome State Fault Refusal :=
  .next (s.putD 17 xv.toNat 7)

/-- Distance symbol 18: distances 513 to 768 (R142, R143). -/
def execDist18 (xv : BitVec 8) (s : State) : Host.Outcome State Fault Refusal :=
  .next (s.putD 18 xv.toNat 8)

/-- Distance symbol 19: distances 769 to 1024 (R142, R143). -/
def execDist19 (xv : BitVec 8) (s : State) : Host.Outcome State Fault Refusal :=
  .next (s.putD 19 xv.toNat 8)

/-- Distance symbol 20: distances 1025 to 1536 (R142, R143). -/
def execDist20 (xv : BitVec 9) (s : State) : Host.Outcome State Fault Refusal :=
  .next (s.putD 20 xv.toNat 9)

/-- Distance symbol 21: distances 1537 to 2048 (R142, R143). -/
def execDist21 (xv : BitVec 9) (s : State) : Host.Outcome State Fault Refusal :=
  .next (s.putD 21 xv.toNat 9)

/-- Distance symbol 22: distances 2049 to 3072 (R142, R143). -/
def execDist22 (xv : BitVec 10) (s : State) : Host.Outcome State Fault Refusal :=
  .next (s.putD 22 xv.toNat 10)

/-- Distance symbol 23: distances 3073 to 4096 (R142, R143). -/
def execDist23 (xv : BitVec 10) (s : State) : Host.Outcome State Fault Refusal :=
  .next (s.putD 23 xv.toNat 10)

/-- Distance symbol 24: distances 4097 to 6144 (R142, R143). -/
def execDist24 (xv : BitVec 11) (s : State) : Host.Outcome State Fault Refusal :=
  .next (s.putD 24 xv.toNat 11)

/-- Distance symbol 25: distances 6145 to 8192 (R142, R143). -/
def execDist25 (xv : BitVec 11) (s : State) : Host.Outcome State Fault Refusal :=
  .next (s.putD 25 xv.toNat 11)

/-- Distance symbol 26: distances 8193 to 12288 (R142, R143). -/
def execDist26 (xv : BitVec 12) (s : State) : Host.Outcome State Fault Refusal :=
  .next (s.putD 26 xv.toNat 12)

/-- Distance symbol 27: distances 12289 to 16384 (R142, R143). -/
def execDist27 (xv : BitVec 12) (s : State) : Host.Outcome State Fault Refusal :=
  .next (s.putD 27 xv.toNat 12)

/-- Distance symbol 28: distances 16385 to 24576 (R142, R143). -/
def execDist28 (xv : BitVec 13) (s : State) : Host.Outcome State Fault Refusal :=
  .next (s.putD 28 xv.toNat 13)

/-- Distance symbol 29: distances 24577 to 32768 (R142, R143). -/
def execDist29 (xv : BitVec 13) (s : State) : Host.Outcome State Fault Refusal :=
  .next (s.putD 29 xv.toNat 13)

end Sys2Proof.Machine
end

