-- ==== Sys2Proof/Machine/Reserved.lean ====
section
/-! DEFINITION. The reserved opcodes 0x6 to 0xE: illegal words that raise ILLEGAL_CMD whatever their
other bits (R94, R309), one meaning each. -/

namespace Sys2Proof.Machine

/-- Opcode 0x6 is reserved (R91): `ILLEGAL()` (R309). -/
def execReservedOpc6 (_arg : BitVec 12) (s : State) : Host.Outcome State Fault Refusal := .next s.illegal

/-- Opcode 0x7 is reserved (R91): `ILLEGAL()` (R309). -/
def execReservedOpc7 (_arg : BitVec 12) (s : State) : Host.Outcome State Fault Refusal := .next s.illegal

/-- Opcode 0x8 is reserved (R91): `ILLEGAL()` (R309). -/
def execReservedOpc8 (_arg : BitVec 12) (s : State) : Host.Outcome State Fault Refusal := .next s.illegal

/-- Opcode 0x9 is reserved (R91): `ILLEGAL()` (R309). -/
def execReservedOpc9 (_arg : BitVec 12) (s : State) : Host.Outcome State Fault Refusal := .next s.illegal

/-- Opcode 0xA is reserved (R91): `ILLEGAL()` (R309). -/
def execReservedOpcA (_arg : BitVec 12) (s : State) : Host.Outcome State Fault Refusal := .next s.illegal

/-- Opcode 0xB is reserved (R91): `ILLEGAL()` (R309). -/
def execReservedOpcB (_arg : BitVec 12) (s : State) : Host.Outcome State Fault Refusal := .next s.illegal

/-- Opcode 0xC is reserved (R91): `ILLEGAL()` (R309). -/
def execReservedOpcC (_arg : BitVec 12) (s : State) : Host.Outcome State Fault Refusal := .next s.illegal

/-- Opcode 0xD is reserved (R91): `ILLEGAL()` (R309). -/
def execReservedOpcD (_arg : BitVec 12) (s : State) : Host.Outcome State Fault Refusal := .next s.illegal

/-- Opcode 0xE is reserved (R91): `ILLEGAL()` (R309). -/
def execReservedOpcE (_arg : BitVec 12) (s : State) : Host.Outcome State Fault Refusal := .next s.illegal

end Sys2Proof.Machine
end

