-- ==== Sys2Proof/Machine/Dispatch.lean ====
section
/-! DEFINITION. The dispatch: one arm per constructor of `Instr`, each one call of its meaning. -/

namespace Sys2Proof.Machine

def exec (i : Instr) (s : State) : Host.Outcome State Fault Refusal :=
  match i with
  | .nop => Sys2Proof.Machine.execNop s
  | .push b => Sys2Proof.Machine.execPush b s
  | .eoi => Sys2Proof.Machine.execEoi s
  | .pop => Sys2Proof.Machine.execPop s
  | .readReg idx => Sys2Proof.Machine.execReadReg idx s
  | .abort => Sys2Proof.Machine.execAbort s
  | .reservedOpc6 arg => Sys2Proof.Machine.execReservedOpc6 arg s
  | .reservedOpc7 arg => Sys2Proof.Machine.execReservedOpc7 arg s
  | .reservedOpc8 arg => Sys2Proof.Machine.execReservedOpc8 arg s
  | .reservedOpc9 arg => Sys2Proof.Machine.execReservedOpc9 arg s
  | .reservedOpcA arg => Sys2Proof.Machine.execReservedOpcA arg s
  | .reservedOpcB arg => Sys2Proof.Machine.execReservedOpcB arg s
  | .reservedOpcC arg => Sys2Proof.Machine.execReservedOpcC arg s
  | .reservedOpcD arg => Sys2Proof.Machine.execReservedOpcD arg s
  | .reservedOpcE arg => Sys2Proof.Machine.execReservedOpcE arg s
  | .softReset => Sys2Proof.Machine.execSoftReset s
  | .lit b => Sys2Proof.Machine.execLit b s
  | .eob => Sys2Proof.Machine.execEob s
  | .len257 => Sys2Proof.Machine.execLen257 s
  | .len258 => Sys2Proof.Machine.execLen258 s
  | .len259 => Sys2Proof.Machine.execLen259 s
  | .len260 => Sys2Proof.Machine.execLen260 s
  | .len261 => Sys2Proof.Machine.execLen261 s
  | .len262 => Sys2Proof.Machine.execLen262 s
  | .len263 => Sys2Proof.Machine.execLen263 s
  | .len264 => Sys2Proof.Machine.execLen264 s
  | .len265 xv => Sys2Proof.Machine.execLen265 xv s
  | .len266 xv => Sys2Proof.Machine.execLen266 xv s
  | .len267 xv => Sys2Proof.Machine.execLen267 xv s
  | .len268 xv => Sys2Proof.Machine.execLen268 xv s
  | .len269 xv => Sys2Proof.Machine.execLen269 xv s
  | .len270 xv => Sys2Proof.Machine.execLen270 xv s
  | .len271 xv => Sys2Proof.Machine.execLen271 xv s
  | .len272 xv => Sys2Proof.Machine.execLen272 xv s
  | .len273 xv => Sys2Proof.Machine.execLen273 xv s
  | .len274 xv => Sys2Proof.Machine.execLen274 xv s
  | .len275 xv => Sys2Proof.Machine.execLen275 xv s
  | .len276 xv => Sys2Proof.Machine.execLen276 xv s
  | .len277 xv => Sys2Proof.Machine.execLen277 xv s
  | .len278 xv => Sys2Proof.Machine.execLen278 xv s
  | .len279 xv => Sys2Proof.Machine.execLen279 xv s
  | .len280 xv => Sys2Proof.Machine.execLen280 xv s
  | .len281 xv => Sys2Proof.Machine.execLen281 xv s
  | .len282 xv => Sys2Proof.Machine.execLen282 xv s
  | .len283 xv => Sys2Proof.Machine.execLen283 xv s
  | .len284 xv => Sys2Proof.Machine.execLen284 xv s
  | .len285 => Sys2Proof.Machine.execLen285 s
  | .dist0 => Sys2Proof.Machine.execDist0 s
  | .dist1 => Sys2Proof.Machine.execDist1 s
  | .dist2 => Sys2Proof.Machine.execDist2 s
  | .dist3 => Sys2Proof.Machine.execDist3 s
  | .dist4 xv => Sys2Proof.Machine.execDist4 xv s
  | .dist5 xv => Sys2Proof.Machine.execDist5 xv s
  | .dist6 xv => Sys2Proof.Machine.execDist6 xv s
  | .dist7 xv => Sys2Proof.Machine.execDist7 xv s
  | .dist8 xv => Sys2Proof.Machine.execDist8 xv s
  | .dist9 xv => Sys2Proof.Machine.execDist9 xv s
  | .dist10 xv => Sys2Proof.Machine.execDist10 xv s
  | .dist11 xv => Sys2Proof.Machine.execDist11 xv s
  | .dist12 xv => Sys2Proof.Machine.execDist12 xv s
  | .dist13 xv => Sys2Proof.Machine.execDist13 xv s
  | .dist14 xv => Sys2Proof.Machine.execDist14 xv s
  | .dist15 xv => Sys2Proof.Machine.execDist15 xv s
  | .dist16 xv => Sys2Proof.Machine.execDist16 xv s
  | .dist17 xv => Sys2Proof.Machine.execDist17 xv s
  | .dist18 xv => Sys2Proof.Machine.execDist18 xv s
  | .dist19 xv => Sys2Proof.Machine.execDist19 xv s
  | .dist20 xv => Sys2Proof.Machine.execDist20 xv s
  | .dist21 xv => Sys2Proof.Machine.execDist21 xv s
  | .dist22 xv => Sys2Proof.Machine.execDist22 xv s
  | .dist23 xv => Sys2Proof.Machine.execDist23 xv s
  | .dist24 xv => Sys2Proof.Machine.execDist24 xv s
  | .dist25 xv => Sys2Proof.Machine.execDist25 xv s
  | .dist26 xv => Sys2Proof.Machine.execDist26 xv s
  | .dist27 xv => Sys2Proof.Machine.execDist27 xv s
  | .dist28 xv => Sys2Proof.Machine.execDist28 xv s
  | .dist29 xv => Sys2Proof.Machine.execDist29 xv s
  | .clLen0 => Sys2Proof.Machine.execClLen0 s
  | .clLen1 => Sys2Proof.Machine.execClLen1 s
  | .clLen2 => Sys2Proof.Machine.execClLen2 s
  | .clLen3 => Sys2Proof.Machine.execClLen3 s
  | .clLen4 => Sys2Proof.Machine.execClLen4 s
  | .clLen5 => Sys2Proof.Machine.execClLen5 s
  | .clLen6 => Sys2Proof.Machine.execClLen6 s
  | .clLen7 => Sys2Proof.Machine.execClLen7 s
  | .clLen8 => Sys2Proof.Machine.execClLen8 s
  | .clLen9 => Sys2Proof.Machine.execClLen9 s
  | .clLen10 => Sys2Proof.Machine.execClLen10 s
  | .clLen11 => Sys2Proof.Machine.execClLen11 s
  | .clLen12 => Sys2Proof.Machine.execClLen12 s
  | .clLen13 => Sys2Proof.Machine.execClLen13 s
  | .clLen14 => Sys2Proof.Machine.execClLen14 s
  | .clLen15 => Sys2Proof.Machine.execClLen15 s
  | .cl16 xv => Sys2Proof.Machine.execCl16 xv s
  | .cl17 xv => Sys2Proof.Machine.execCl17 xv s
  | .cl18 xv => Sys2Proof.Machine.execCl18 xv s
  | .blockFixed bfinal => Sys2Proof.Machine.execBlockFixed bfinal s
  | .blockDynamic bfinal => Sys2Proof.Machine.execBlockDynamic bfinal s

end Sys2Proof.Machine
end

