-- ==== Sys2Proof/Machine/MatchFinder.lean ====
section
/-! DEFINITION. The match finder: window maintenance CONSUME (R153) and the search FIND_BEST_MATCH by
the reference policy (R156 to R163). A read outside the window answers `none`, which the calling
step refuses (R72). -/

namespace Sys2Proof.Machine

/-- The index after the eviction CONSUME makes for position `q`, if any (R153). The key of the
evicted position is read while the position is still in the window. -/
def State.evictedIndex (s : State) : Option PrefixIndex :=
  if Config.maxBackrefDist ≤ s.p then
    match s.keyAt (s.p - Config.maxBackrefDist) with
    | some k => some (s.pindex.evict k (s.p - Config.maxBackrefDist))
    | none => none
  else some s.pindex

/-- The index after CONSUME registers position `q`, if its 3-byte prefix is known (R153, R154). -/
def State.registeredIndex (s : State) (x : PrefixIndex) : Option PrefixIndex :=
  if s.p + 2 < s.r then
    match s.keyAt s.p with
    | some k => some (x.register k s.p)
    | none => none
  else some x

/-- `CONSUME()` (R153): the cursor moves on, the position that leaves the window is evicted and let
go of, and the consumed position is registered. Precondition `P < R`. -/
def State.consume (s : State) : Option State :=
  if s.p < s.r then
    match s.evictedIndex with
    | none => none
    | some x =>
      match s.registeredIndex x with
      | none => none
      | some y =>
        some { s with
          p := s.p + 1, pindex := y, store := s.store.dropBelow (windowStart (s.p + 1)) }
  else none

/-- `repeat n times: CONSUME()` (R282). -/
def State.consumeN : Nat → State → Option State
  | 0, s => some s
  | n + 1, s =>
    match s.consume with
    | none => none
    | some s' => State.consumeN n s'

/-- A Match Candidate; length 0 means no usable match (R156). -/
structure Candidate where
  length   : Nat
  distance : Nat
  deriving DecidableEq, Repr, Inhabited

/-- The comparison of R156: from `k` equal bytes on, at most `n` more, how many bytes from `q` and
from `p` on are equal. It may run past the cursor (R159). -/
def State.matchFrom (s : State) (q p : Nat) : Nat → Nat → Option Nat
  | 0, k => some k
  | n + 1, k =>
    match s.winRead (q + k), s.winRead (p + k) with
    | some a, some b => if a = b then State.matchFrom s q p n (k + 1) else some k
    | _, _ => none

/-- The scan of the candidates, most recent first (R156): only a strictly longer match replaces
the best (R160), and the scan stops at a best of 250 or more (R161). -/
def State.scan (s : State) (p cap : Nat) : List Nat → Candidate → Option Candidate
  | [], best => some best
  | q :: rest, best =>
    match s.matchFrom q p cap 0 with
    | none => none
    | some k =>
      let best' := if best.length < k then ⟨k, p - q⟩ else best
      if Config.threshold ≤ best'.length then some best' else State.scan s p cap rest best'

/-- `FIND_BEST_MATCH(p, avail)` (R156). -/
def State.findBestMatch (s : State) (p avail : Nat) : Option Candidate :=
  if avail < Config.minLookahead then some ⟨0, 0⟩
  else
    match s.keyAt p with
    | none => none
    | some key =>
      match s.scan p (min Config.maxMatch avail) (s.pindex.get key) ⟨0, 0⟩ with
      | none => none
      | some best => if best.length < Config.minMatch then some ⟨0, 0⟩ else some best

end Sys2Proof.Machine
end

