-- ==== Sys2Proof/Machine/Engine.lean ====
section
/-! DEFINITION. The core agent: its internal steps ENCODE_STEP, FLUSH, DRAIN_BYTE and FINISH, which of
them is enabled (R280), and its turn. Each step is atomic (R10). -/

namespace Sys2Proof.Machine

/-- The core agent's steps (R280). -/
inductive CoreStep where
  | encodeStep
  | flush
  | drainByte
  | finish
  deriving DecidableEq, Repr

/-- The step that is enabled, if any; never more than one (R280, R288). `none` is a stall (R292), or
`DONE` or `FAULT`. -/
def State.enabledStep (s : State) : Option CoreStep :=
  match s.phase with
  | .encode =>
    if s.p < s.r ∧ (s.eoi = true ∨ Config.lookaheadMin ≤ s.avail) then some .encodeStep
    else if s.eoi = true ∧ s.p = s.r then some .finish
    else none
  | .flush => some .flush
  | .drain => if 8 ≤ s.bitq.length ∧ oqFull s.oq.length = false then some .drainByte else none
  | .drainFinal => if 8 ≤ s.bitq.length ∧ oqFull s.oq.length = false then some .drainByte else none
  | .done => none
  | .fault => none

/-- The end of ENCODE_STEP: a block that holds more than `MAX_BLOCK_SIZE` Symbols is to be flushed
(R282, R283). -/
def State.flushTrigger (s : State) : State :=
  if Config.maxBlockSize < s.symcount.toNat then { s with phase := .flush } else s

/-- Append and count a length/distance pair (R282). -/
def State.recordPair (s : State) (l d : SymCode) : State :=
  (((s.appendSym (.len l.sym l.xv l.xb)).appendSym (.dist d.sym d.xv d.xb)).recordLL l.sym).recordD d.sym

/-- Append and count a literal (R282). -/
def State.recordLit (s : State) (b : Byte) : State := (s.appendSym (.lit b)).recordLL b.toNat

/-- The end of an ENCODE_STEP that has recorded its Symbols and moves past `n` bytes (R282). -/
def State.advance (s : State) (n : Nat) : Host.Outcome State Fault Refusal :=
  match s.consumeN n with
  | none => .refused .windowRead
  | some s' => .next s'.flushTrigger

/-- The match branch of ENCODE_STEP (R282), with the kept check of R348 (3). -/
def State.encodeMatch (s : State) (c : Candidate) : Host.Outcome State Fault Refusal :=
  match lenCode c.length with
  | none => .fault .lengthOutsideTable
  | some l =>
    match distCode c.distance with
    | none => .fault .distanceOutsideTable
    | some d =>
      if s.symbufFull then .next (s.raise .symbufOverflow)
      else (s.recordPair l d).advance c.length

/-- The literal branch of ENCODE_STEP (R282), with the kept check of R348 (3). -/
def State.encodeLiteral (s : State) : Host.Outcome State Fault Refusal :=
  match s.winRead s.p with
  | none => .refused .windowRead
  | some b =>
    if s.symbufFull then .next (s.raise .symbufOverflow)
    else (s.recordLit b).advance 1

/-- `ENCODE_STEP()` (R282). -/
def State.encodeStep (s : State) : Host.Outcome State Fault Refusal :=
  match s.findBestMatch s.p s.avail with
  | none => .refused .windowRead
  | some c => if Config.minMatch ≤ c.length then s.encodeMatch c else s.encodeLiteral

/-- `FLUSH()` (R284). The working state is unspecified once the step is over (R29), also when a
fault ended it. -/
def State.flushStep (s : State) : State :=
  match s.writeDynamicBlock 0 with
  | .error c => (s.raise c).freeWork
  | .ok s' => { s'.afterBlock with phase := .drain }.freeWork

/-- The final block: fixed below 200 Symbols, else dynamic (R254, R286). -/
def State.writeFinalBlock (s : State) : Except FaultCode State :=
  if s.symcount.toNat < Config.fixedBlockLimit then .ok (s.writeFixedBlock 1)
  else s.writeDynamicBlock 1

/-- `FINISH()` (R286). The working state is unspecified once the step is over (R29). -/
def State.finishStep (s : State) : State :=
  match s.writeFinalBlock with
  | .error c => (s.raise c).freeWork
  | .ok s' => { s'.padToByte.afterBlock with phase := .drainFinal }.freeWork

/-- `DRAIN_BYTE()` (R275). -/
def State.drainStep (s : State) : State :=
  let rest := s.bitq.drop 8
  let last := decide (s.phase = .drainFinal) && rest.isEmpty
  { s with
    bitq := rest
    oq := s.oq ++ [⟨headByte s.bitq, last⟩]
    phase := if rest.length < 8 then (if s.phase = .drainFinal then .done else .encode) else s.phase }

/-- The core agent's turn: its enabled step; a stalled core takes no step (R280, R292, R356). -/
def State.coreTurn (s : State) : Host.Outcome State Fault Refusal :=
  match s.enabledStep with
  | some .encodeStep => s.encodeStep
  | some .flush => .next s.flushStep
  | some .drainByte => .next s.drainStep
  | some .finish => .next s.finishStep
  | none => .next s

end Sys2Proof.Machine
end

