-- ==== Sys2Proof/Machine/Fetch.lean ====
section
/-! DEFINITION. Where the machine's next instruction comes from. The core fetches none (R81): the host
issues commands one at a time (R300), and the agents' steps interleave in any order (R79). The
turns to come stand in the state, and `step` takes the first. -/

namespace Sys2Proof.Machine

/-- The turn after this state: the first one listed, or the core agent's when none is. -/
def State.nextTurn (s : State) : Turn := s.turns.headD .core

/-- The state once its next turn has been taken off the list. -/
def State.takeTurn (s : State) : State := { s with turns := s.turns.drop 1 }

/-- The turn that brings an encoded word in: a command at the host port, or a stream element. -/
def turnOfCode (c : Code) : Turn :=
  match c.fmt with
  | .cmd16 => .cmd (c.bits.setWidth 16)
  | .ll9 => .elem c
  | .d5 => .elem c
  | .cl5 => .elem c
  | .bh3 => .elem c

/-- What a command word comes to once decoded: an instruction to run, or an illegal word (R300). -/
def decodeCommand (w : CmdWord) : Option Instr :=
  match decodeCmd w with
  | .ok i => some i
  | .error _ => none

/-- What an element's word comes to once decoded (R98 to R104); a command word is none. -/
def decodeElement (c : Code) : Except DecodeError Instr :=
  match c.fmt with
  | .cmd16 => .error .notAnElement
  | .ll9 => decode c
  | .d5 => decode c
  | .cl5 => decode c
  | .bh3 => decode c

end Sys2Proof.Machine
end

