-- ==== Sys2Proof/Machine/Step.lean ====
section
/-! DEFINITION. One step of the machine: the next turn is taken, and it is a host command, a step of
the core agent, a reset, or one stream element. -/

namespace Sys2Proof.Machine

/-- One step. A command word is decoded first; a legal one runs by its rule, an illegal one by R309
(R300). The core agent takes its enabled step (R280). The reset input has the effect of RESET()
(R312). A stream element is decoded and written. -/
def step (s : State) : Host.Outcome State Fault Refusal :=
  match s.nextTurn with
  | .cmd w =>
    match decodeCommand w with
    | some i => exec i s.takeTurn
    | none => .next s.takeTurn.illegal
  | .core => s.takeTurn.coreTurn
  | .rst => .next s.takeTurn.doReset
  | .elem c =>
    match decodeElement c with
    | .ok i => exec i s.takeTurn
    | .error e => .refused (.noElement e)

/-- The state with a table word put where the next step takes its instruction: the first turn. A
program is the host's command words, which come from outside the machine (log 8). -/
def State.withFetchWord (s : State) (nbits w : Nat) : State :=
  { s with turns := turnOfCode (tableCode nbits w) :: s.turns }

end Sys2Proof.Machine
end

