-- ==== Sys2Proof/Machine/Stream.lean ====
section
/-! DEFINITION. The whole stream as a function of the input (R290), and the host's side of a run: the
pseudo-commands of R96, a complete run (R374), and the gzip member a host builds (R316). -/

namespace Sys2Proof.Machine

/-! ## DEFLATE_STREAM -/

/-- The input store with every byte of an input present. -/
def storeOf : Nat → List Byte → Memory
  | _, [] => []
  | q, b :: rest => (q, b) :: storeOf (q + 1) rest

/-- The reset state with `R = N` and `EOI = 1` from the start (R290). -/
def State.withInput (input : List Byte) : State :=
  { State.reset with store := storeOf 0 input, r := input.length, eoi := true }

/-- The loop of R290: ENCODE_STEP while input is left, each full block flushed at once. `n` bounds the
steps. -/
def encodeAll : Nat → State → Host.Outcome State Fault Refusal
  | 0, s => .next s
  | n + 1, s =>
    if s.p < s.r then
      match s.encodeStep with
      | .next s' => if s'.phase = .flush then encodeAll n { s'.flushStep with phase := .encode } else encodeAll n s'
      | .fault f => .fault f
      | .refused r => .refused r
    else .next s

/-- The bits of a queue 8 at a time (R272). `n` bounds the bytes. -/
def packBytes : Nat → List Bool → List Byte
  | 0, _ => []
  | n + 1, l => if l = [] then [] else headByte l :: packBytes n (l.drop 8)

/-- `DEFLATE_STREAM(IN[0..N))` (R290); `none` if a step of the loop is no next state. -/
def deflateStream (input : List Byte) : Option (List Byte) :=
  match encodeAll input.length (State.withInput input) with
  | .next s => let t := s.finishStep; some (packBytes t.bitq.length t.bitq)
  | .fault _ => none
  | .refused _ => none

/-! ## The host's side

A host's program waits for the core between its commands (R382: any interleaving). Here a list of
gaps says how: a pseudo-command issues one command for each gap, after that many turns of the core
agent, and the end of the list ends it unfinished. A complete run has a gap before every command.
These forms are the model's choice (DESIGN CHOICE, log 20). -/

/-- The turn of an instruction's command word, `{OPC, 0b0000, ARG}` (R90, R95). -/
def commandTurn (i : Instr) : Turn := .cmd ((encode i).bits.setWidth 16)

/-- `n` turns of the core agent. -/
def coreTurns (n : Nat) : List Turn := List.replicate n .core

/-- Go on with what an outcome's next state holds; a stop stays one. -/
def andThen {α β : Type} (o : Host.Outcome α Fault Refusal) (f : α → Host.Outcome β Fault Refusal) :
    Host.Outcome β Fault Refusal :=
  match o with
  | .next a => f a
  | .fault e => .fault e
  | .refused e => .refused e

/-- Run a state's turns, `n` of them, and list the response after each. -/
def runTurns : Nat → State → Host.Outcome (State × List Word) Fault Refusal
  | 0, s => .next (s, [])
  | n + 1, s => andThen (step s) fun a => andThen (runTurns n a) fun (t, l) => .next (t, a.resp :: l)

/-- The state with `g` turns of the core agent to come, and then one command. -/
def State.plan (s : State) (g : Nat) (i : Instr) : State :=
  { s with turns := coreTurns g ++ [commandTurn i] }

/-- Issue one command after `g` turns of the core agent (R300, R382). -/
def issue (g : Nat) (i : Instr) (s : State) : Host.Outcome State Fault Refusal :=
  Host.Core.run Sys2Proof.core (g + 1) (s.plan g i)

/-- `ACCEPTED`, bit 0 of a PUSH response (R93). -/
def State.accepted (s : State) : Bool := s.resp.getLsbD 0

/-- The byte of a POP response with `VALID = 1`, as a list (R93). -/
def State.poppedByte (s : State) : List Byte := if s.resp.getLsbD 8 then [s.resp.setWidth 8] else []

/-- What ends DRAIN: a response with `LAST = 1`, or STATUS with `FAULT = 1` (R96). -/
def State.drainEnds (s : State) : Bool := s.resp.getLsbD 9 || s.faultFlag

/-- `PUSHB b0 b1 …` (R96): one PUSH per byte in order, each repeated while its response has
`ACCEPTED = 0`. The bytes still to push stand in the answer: none once the command is done. -/
def pushBytes : List Nat → State → List Byte → Host.Outcome (State × List Byte) Fault Refusal
  | _, s, [] => .next (s, [])
  | [], s, b :: rest => .next (s, b :: rest)
  | g :: gaps, s, b :: rest =>
    andThen (issue g (.push b) s) fun a => pushBytes gaps a (if a.accepted then rest else b :: rest)

/-- The bytes of a text, one an ASCII character; a text with another character has none (log 20). -/
def textBytes : List Char → Option (List Byte)
  | [] => some []
  | c :: rest =>
    match textBytes rest with
    | some l => if c.toNat < 128 then some (BitVec.ofNat 8 c.toNat :: l) else none
    | none => none

/-- `PUSHS "<text>"` (R96): PUSHB of the text's bytes. -/
def pushText (gaps : List Nat) (s : State) (text : List Char) :
    Option (Host.Outcome (State × List Byte) Fault Refusal) :=
  (textBytes text).map (pushBytes gaps s)

/-- `DRAIN` (R96): POP repeated; each response with `VALID = 1` gives its byte. It does not wait for
`DONE` before it pops. -/
def drainOutput : List Nat → State → Host.Outcome (State × List Byte) Fault Refusal
  | [], s => .next (s, [])
  | g :: gaps, s =>
    andThen (issue g .pop s) fun a =>
      if a.drainEnds then .next (a, a.poppedByte)
      else andThen (drainOutput gaps a) fun (t, l) => .next (t, a.poppedByte ++ l)

/-- `WAIT_DONE` (R96): READ_REG STATUS repeated until bit 3 (`DONE`) or bit 4 (`FAULT`) is 1. -/
def waitDone : List Nat → State → Host.Outcome State Fault Refusal
  | [], s => .next s
  | g :: gaps, s =>
    andThen (issue g (.readReg 0) s) fun a =>
      if a.resp.getLsbD 3 || a.resp.getLsbD 4 then .next a else waitDone gaps a

/-! ## A complete run (R374) -/

/-- One try of a PUSH: how many turns of the core agent come before it, and, for each POP between it
and the next try, how many come before that POP (R374, R376). -/
structure PushTry where
  gap : Nat
  pops : List Nat
  deriving DecidableEq, Repr

/-- How the core agent's turns lie in a complete run (R374, R382): how many come before each command,
and how many tries and POPs the host has. The spec fixes none of these numbers (log 20). -/
structure HostPlan where
  reset : Nat
  feed : List PushTry
  eoi : Nat
  drain : List Nat
  crc : Nat
  isize : Nat
  deriving DecidableEq, Repr

/-- What a host keeps of a run: the bytes popped, `CRC` and `ISIZE`, and the input bytes it had no try
left to push, none in a complete run. -/
structure HostRun where
  final : State
  output : List Byte
  crc : Word
  isize : Word
  unpushed : List Byte
  deriving DecidableEq, Repr

/-- One POP for each gap: the bytes of the responses with `VALID = 1`. -/
def popBytes : List Nat → State → Host.Outcome (State × List Byte) Fault Refusal
  | [], s => .next (s, [])
  | g :: gaps, s =>
    andThen (issue g .pop s) fun a =>
      andThen (popBytes gaps a) fun (t, l) => .next (t, a.poppedByte ++ l)

/-- Push an input, each PUSH retried while `ACCEPTED = 0`, with POPs between retries (R374, R376): the
bytes popped, and those still to push. -/
def feedInput : List PushTry → State → List Byte →
    Host.Outcome (State × List Byte × List Byte) Fault Refusal
  | _, s, [] => .next (s, [], [])
  | [], s, b :: rest => .next (s, [], b :: rest)
  | x :: tries, s, b :: rest =>
    andThen (issue x.gap (.push b) s) fun a =>
      if a.accepted then feedInput tries a rest
      else
        andThen (popBytes x.pops a) fun (c, early) =>
          andThen (feedInput tries c (b :: rest)) fun (t, l, left) => .next (t, early ++ l, left)

/-- A complete run as the host sees it (R374): reset, push the input, EOI, pop until `LAST = 1`, and
read `CRC` and `ISIZE`. Core turns come before each command as the plan says (R382; log 20). -/
def hostRun (plan : HostPlan) (s : State) (input : List Byte) : Host.Outcome HostRun Fault Refusal :=
  andThen (issue plan.reset .softReset s) fun s =>
  andThen (feedInput plan.feed s input) fun (s, early, left) =>
  andThen (issue plan.eoi .eoi s) fun s =>
  andThen (drainOutput plan.drain s) fun (s, late) =>
  andThen (issue plan.crc (.readReg 2) s) fun c =>
  andThen (issue plan.isize (.readReg 1) c) fun z =>
    .next ⟨z, early ++ late, c.resp, z.resp, left⟩

/-! ## The gzip member -/

/-- A word's four bytes, least significant first (R74, R316). -/
def littleEndian (w : Word) : List Byte :=
  [w.setWidth 8, (w >>> 8).setWidth 8, (w >>> 16).setWidth 8, (w >>> 24).setWidth 8]

/-- The gzip member a host builds from the core's output, its CRC and its ISIZE; the OS byte is the
host's (R316). -/
def gzipMember (os : Byte) (stream : List Byte) (crc isize : Word) : List Byte :=
  [0x1F, 0x8B, 0x08, 0x00, 0x00, 0x00, 0x00, 0x00, 0x00, os] ++ stream ++ littleEndian crc ++
    littleEndian isize

end Sys2Proof.Machine
end

