-- ==== Sys2Proof/Safety.lean ====
section
/-! DEFINITION. What counts as a safe run, in the terms the statements use: the invariants of R52 and
R152, illegal words (R94), well-formed Symbol sequences (R27), and the host's view of a run. -/

namespace Sys2Proof.Machine

/-! ## Turns -/

/-- A stream element run by itself, which only the model's own turn does (log 5). -/
def Turn.isElem : Turn → Bool
  | .elem _ => true
  | _ => false

/-- No stream element is run by itself: the turns are the spec's two agents and the reset input. -/
def State.agentsOnly (s : State) : Prop := ∀ t ∈ s.turns, t.isElem = false

/-- A turn that resets the core: the reset input, or the word of SOFT_RESET (R370). -/
def Turn.isReset : Turn → Bool
  | .rst => true
  | .cmd w => decide (w = 0xF000)
  | _ => false

/-! ## Command words -/

/-- `OPC`, bits 15:12 of a command word (R90). -/
def cmdOpc (w : CmdWord) : BitVec 4 := w.extractLsb' 12 4

/-- `RSV`, bits 11:8 (R90). -/
def cmdRsv (w : CmdWord) : BitVec 4 := w.extractLsb' 8 4

/-- `ARG`, bits 7:0 (R90). -/
def cmdArg (w : CmdWord) : BitVec 8 := w.extractLsb' 0 8

/-- A word is illegal when one of these holds (R94): a reserved `OPC`, a nonzero `RSV`, or a nonzero
`ARG` of an opcode without argument. -/
def illegalWord (w : CmdWord) : Prop :=
  (6 ≤ (cmdOpc w).toNat ∧ (cmdOpc w).toNat ≤ 14) ∨ cmdRsv w ≠ 0 ∨
    (cmdArg w ≠ 0 ∧ ((cmdOpc w).toNat = 0 ∨ (cmdOpc w).toNat = 2 ∨ (cmdOpc w).toNat = 3 ∨
      (cmdOpc w).toNat = 5 ∨ (cmdOpc w).toNat = 15))

/-! ## The block buffer (R27) -/

/-- A length symbol with an extra value its row of the length partition admits (R104, R141). -/
def lenOk (sym xv xb : Nat) : Bool :=
  decide (257 ≤ sym ∧ sym ≤ 285) && decide (xb = lenExtra.getD (sym - 257) 0) &&
    decide (xv < 2 ^ xb) && decide (sym = 285 ∨ lengthOf sym xv ≤ 257)

/-- A distance symbol with an extra value its row of the distance partition admits (R104, R143). -/
def distOk (sym xv xb : Nat) : Bool :=
  decide (sym ≤ 29) && decide (xb = distExtra.getD sym 0) && decide (xv < 2 ^ xb)

/-- A sequence of Symbols as R27 allows: ranges kept, and each `LEN` followed at once by its `DIST`. -/
def symsOk : List Sym → Bool
  | [] => true
  | .lit _ :: rest => symsOk rest
  | .len sym xv xb :: .dist d dx db :: rest => lenOk sym xv xb && distOk d dx db && symsOk rest
  | .len _ _ _ :: _ => false
  | .dist _ _ _ :: _ => false

/-- The literal/length symbol of a Symbol, if it is one. -/
def Sym.llId : Sym → Option Nat
  | .lit b => some b.toNat
  | .len sym _ _ => some sym
  | .dist _ _ _ => none

/-- The distance symbol of a Symbol, if it is one. -/
def Sym.dId : Sym → Option Nat
  | .dist sym _ _ => some sym
  | _ => none

/-! ## The partitions as the spec's tables print them -/

/-- A row of a partition table: a symbol, its extra bits, and the first and last value it covers. -/
structure PartitionRow where
  sym : Nat
  xb  : Nat
  lo  : Nat
  hi  : Nat
  deriving DecidableEq, Repr

/-- The length partition, row by row (R141). -/
def lengthPartition : List PartitionRow :=
  [⟨257, 0, 3, 3⟩, ⟨258, 0, 4, 4⟩, ⟨259, 0, 5, 5⟩, ⟨260, 0, 6, 6⟩, ⟨261, 0, 7, 7⟩,
   ⟨262, 0, 8, 8⟩, ⟨263, 0, 9, 9⟩, ⟨264, 0, 10, 10⟩, ⟨265, 1, 11, 12⟩, ⟨266, 1, 13, 14⟩,
   ⟨267, 1, 15, 16⟩, ⟨268, 1, 17, 18⟩, ⟨269, 2, 19, 22⟩, ⟨270, 2, 23, 26⟩, ⟨271, 2, 27, 30⟩,
   ⟨272, 2, 31, 34⟩, ⟨273, 3, 35, 42⟩, ⟨274, 3, 43, 50⟩, ⟨275, 3, 51, 58⟩, ⟨276, 3, 59, 66⟩,
   ⟨277, 4, 67, 82⟩, ⟨278, 4, 83, 98⟩, ⟨279, 4, 99, 114⟩, ⟨280, 4, 115, 130⟩, ⟨281, 5, 131, 162⟩,
   ⟨282, 5, 163, 194⟩, ⟨283, 5, 195, 226⟩, ⟨284, 5, 227, 257⟩, ⟨285, 0, 258, 258⟩]

/-- The distance partition, row by row (R143). -/
def distancePartition : List PartitionRow :=
  [⟨0, 0, 1, 1⟩, ⟨1, 0, 2, 2⟩, ⟨2, 0, 3, 3⟩, ⟨3, 0, 4, 4⟩,
   ⟨4, 1, 5, 6⟩, ⟨5, 1, 7, 8⟩, ⟨6, 2, 9, 12⟩, ⟨7, 2, 13, 16⟩,
   ⟨8, 3, 17, 24⟩, ⟨9, 3, 25, 32⟩, ⟨10, 4, 33, 48⟩, ⟨11, 4, 49, 64⟩,
   ⟨12, 5, 65, 96⟩, ⟨13, 5, 97, 128⟩, ⟨14, 6, 129, 192⟩, ⟨15, 6, 193, 256⟩,
   ⟨16, 7, 257, 384⟩, ⟨17, 7, 385, 512⟩, ⟨18, 8, 513, 768⟩, ⟨19, 8, 769, 1024⟩,
   ⟨20, 9, 1025, 1536⟩, ⟨21, 9, 1537, 2048⟩, ⟨22, 10, 2049, 3072⟩, ⟨23, 10, 3073, 4096⟩,
   ⟨24, 11, 4097, 6144⟩, ⟨25, 11, 6145, 8192⟩, ⟨26, 12, 8193, 12288⟩, ⟨27, 12, 12289, 16384⟩,
   ⟨28, 13, 16385, 24576⟩, ⟨29, 13, 24577, 32768⟩]

/-! ## What reset leaves -/

/-- Every element of the table of R51 at its reset value. The working state is unspecified there. -/
structure ResetFields (s : State) : Prop where
  phase : s.phase = .encode
  p : s.p = 0
  r : s.r = 0
  eoi : s.eoi = false
  store : ∀ q, s.store.read q = none
  pindex : ∀ k, s.pindex.get k = []
  sym : s.sym = []
  symcount : s.symcount = 0
  freqLL : ∀ i, entry s.freqLL i = 0
  freqD : ∀ i, entry s.freqD i = 0
  bitq : s.bitq = []
  oq : s.oq = []
  isize : s.isize = 0
  crc : s.crc = 0
  blocks : s.blocks = 0
  faultcode : s.faultcode = 0
  coreId : s.readReg 5 = Config.coreId

/-! ## Elements of the stream -/

/-- The state after one literal/length element is written with the payload's tables: its code, most
significant bit first, then its extra value, least significant bit first (R252, R270, R271). -/
def State.afterLL (s : State) (sym xv xb : Nat) : State :=
  { s with
    bitq := s.bitq ++
      (codeBits (entry s.payloadTables.codeLL sym).toNat (entry s.payloadTables.lenLL sym).toNat ++
        fieldBits xv xb) }

/-- The state after one distance element is written with the payload's tables (R252). -/
def State.afterD (s : State) (sym xv xb : Nat) : State :=
  { s with
    bitq := s.bitq ++
      (codeBits (entry s.payloadTables.codeD sym).toNat (entry s.payloadTables.lenD sym).toNat ++
        fieldBits xv xb) }

/-- The state after one code-length element is written with the block's CL code (R251). -/
def State.afterCL (s : State) (sym xv xb : Nat) : State :=
  { s with
    bitq := s.bitq ++
      (codeBits (entry s.work.codeCL sym).toNat (entry s.work.lenCL sym).toNat ++ fieldBits xv xb) }

/-- Instructions one after another, as long as each answers a next state. -/
def execAll : List Instr → State → Host.Outcome State Fault Refusal
  | [], s => .next s
  | i :: rest, s =>
    match exec i s with
    | .next t => execAll rest t
    | .fault f => .fault f
    | .refused r => .refused r

/-! ## Invariants -/

/-- R52 (1): the cursor is within the input, and the lookahead within its capacity. -/
structure CursorInv (s : State) : Prop where
  cursor : s.p ≤ s.r
  lookahead : s.avail ≤ Config.laCap

/-- R25: the input store holds exactly the positions `WSTART <= q < R`. -/
def StoreInv (s : State) : Prop :=
  s.store.map Prod.fst = List.range' s.wstart (s.r - s.wstart)

/-- What R152 says the index lists for a key: the window positions with that prefix whose three
bytes have been received, in descending order. -/
def State.indexSpec (s : State) (k : Key) : List Nat :=
  ((List.range' s.wstart (s.p - s.wstart)).reverse).filter fun q =>
    decide (q + 2 < s.r) && decide (s.keyAt q = some k)

/-- R52 (3), R152: the prefix index is exact. Before end of input the 3-byte prefix of every consumed
position has been received (R281). -/
structure IndexInv (s : State) : Prop where
  canonical : s.pindex.wf
  exact : ∀ k, s.pindex.get k = s.indexSpec k
  received : s.eoi = false → s.p = 0 ∨ s.p + 2 ≤ s.r

/-- R52 (4): the Symbol count and its bounds, and R27's form of the Symbol sequence. A block that is
being drained has been cleared (R256). -/
structure SymInv (s : State) : Prop where
  count : s.symcount.toNat = s.sym.length
  bound : s.sym.length ≤ Config.maxBlockSize + 2
  open_bound : s.phase = .encode → s.sym.length ≤ Config.maxBlockSize
  cleared : s.phase = .drain ∨ s.phase = .drainFinal ∨ s.phase = .done → s.sym = []
  form : symsOk s.sym = true

/-- R52 (5): the frequency tables count the Symbols of the open block (u32). -/
structure FreqInv (s : State) : Prop where
  ll : ∀ i, i < 286 → entry s.freqLL i = BitVec.ofNat 32 ((s.sym.map Sym.llId).count (some i))
  d : ∀ i, i < 30 → entry s.freqD i = BitVec.ofNat 32 ((s.sym.map Sym.dId).count (some i))

/-- R52 (6) and R285, R287, R341: what the bit queue holds in each phase, and where the input stands
once the final block is written. -/
structure PhaseInv (s : State) : Prop where
  tail : s.phase = .encode ∨ s.phase = .flush → s.bitq.length < 8
  draining : s.phase = .drain → 8 ≤ s.bitq.length
  draining_final : s.phase = .drainFinal → 8 ≤ s.bitq.length ∧ s.bitq.length % 8 = 0
  done : s.phase = .done → s.bitq = []
  stopped : s.phase = .fault → s.bitq = [] ∧ s.oq = []
  ended : s.phase = .drainFinal ∨ s.phase = .done → s.eoi = true ∧ s.p = s.r

/-- R52 (7): the output FIFO is within its depth. -/
def OutInv (s : State) : Prop := s.oq.length ≤ Config.oqDepth

/-- R52 (8), R32: `ISIZE = R mod 2^32`. -/
def SizeInv (s : State) : Prop := s.isize = BitVec.ofNat 32 s.r

/-- Every invariant of R52 together. -/
structure Invariant (s : State) : Prop where
  cursor : CursorInv s
  store : StoreInv s
  index : IndexInv s
  sym : SymInv s
  freq : FreqInv s
  phase : PhaseInv s
  out : OutInv s
  size : SizeInv s

/-- The turns run to a next state: no fault and no refusal of the model. -/
def State.safe (s : State) : Prop := ∃ t, step s = .next t

/-! ## Code lengths -/

/-- The Kraft sum of the used symbols' lengths, in units of `2^-limit` (glossary, R192). -/
def kraftSum (len : List Nat) (limit : Nat) : Nat :=
  (len.map fun l => if l = 0 then 0 else 2 ^ (limit - l)).sum

/-- How many symbols a frequency table uses. -/
def usedCount (f : List Nat) : Nat := f.countP fun x => decide (0 < x)

/-! ## The host's view of a run (R289) -/

/-- The bytes the accepted PUSHes of a run bring in, and the entries its POPs take out, in order:
the run takes the state's turns, `n` of them. -/
structure RunView where
  final : State
  pushed : List Byte
  popped : List OutEntry

/-- One step as the host sees it: the byte an accepted PUSH brings in and the entry a POP takes. -/
def viewStep (s t : State) : List Byte × List OutEntry :=
  ( (match s.nextTurn with
     | .cmd w => if s.r < t.r then [w.setWidth 8] else []
     | _ => []),
    (match s.nextTurn with
     | .cmd w => if w = 0x3000 then s.oq.take 1 else []
     | _ => []) )

/-- Run `n` steps and gather what the host sees; `none` at a fault or refusal of the model. -/
def viewRun : Nat → State → Option RunView
  | 0, s => some ⟨s, [], []⟩
  | n + 1, s =>
    match step s with
    | .next t =>
      match viewRun n t with
      | some v => some ⟨v.final, (viewStep s t).1 ++ v.pushed, (viewStep s t).2 ++ v.popped⟩
      | none => none
    | _ => none

/-- A whole stream's bytes as output entries: the last one carries `last = 1`, every other 0 (R276,
R290). -/
def lastMarked : List Byte → List OutEntry
  | [] => []
  | [b] => [⟨b, true⟩]
  | b :: c :: rest => ⟨b, false⟩ :: lastMarked (c :: rest)

end Sys2Proof.Machine
end

