-- ==== Sys2Proof/Certificates/Slice0/Obligations.lean ====
section
/-! DEFINITION. The statements for the provers. Each docstring names the rules of spec/ it formalises;
where a clause rests on a choice of the model, it names the log entry. -/

open Sys2Proof Sys2Proof.Machine

/-! ## Encodings -/

/-- Decoding the word of any well-formed instruction gives it back, every operand at every value
(R90, R91, R98, R101 to R104). The layout of an element's word, its extra value above the symbol id
and its format, is the model's choice (log 6). -/
def Obligations.DecodeEncodeAgree : Prop :=
  ∀ i : Instr, i.wf = true → decode (encode i) = .ok i

/-- Each word has at most one meaning: a word that decodes is the word of its instruction, and the
instruction is well-formed. The layout of an element's word is the model's choice (log 6). -/
def Obligations.EncodeDecodeAgree : Prop :=
  ∀ (c : Code) (i : Instr), decode c = .ok i → encode i = c ∧ i.wf = true

/-- A few words of each format decode to what they stand for. The command words, the block headers and
the symbol ids are written out from the spec's tables (R90, R91, R98, R101 to R103); that a word of
LL9, D5 or CL5 holds its extra value in the bits above the symbol id is the model's own layout
(DESIGN CHOICE, log 6). -/
def Obligations.DecodeSampleWords : Prop :=
  decode ⟨.cmd16, 0x1041⟩ = .ok (.push 0x41) ∧
  decode ⟨.cmd16, 0x4006⟩ = .ok (.readReg 6) ∧
  decode ⟨.cmd16, 0x1100⟩ = .error .illegalCommandWord ∧
  decode ⟨.cmd16, 0x0001⟩ = .error .illegalCommandWord ∧
  decode ⟨.cmd16, 0x6000⟩ = .ok (.reservedOpc6 0) ∧
  decode ⟨.ll9, 0b00_100001101⟩ = .ok (.len269 0) ∧
  decode ⟨.ll9, 0b11110_100011100⟩ = .ok (.len284 30) ∧
  decode ⟨.ll9, 0b11111_100011100⟩ = .error .extraOutOfRange ∧
  decode ⟨.d5, 0b111111_01111⟩ = .ok (.dist15 63) ∧
  decode ⟨.cl5, 0b1111111_10010⟩ = .ok (.cl18 127) ∧
  decode ⟨.bh3, 0b01_1⟩ = .ok (.blockFixed 1) ∧
  decode ⟨.bh3, 0b10_0⟩ = .ok (.blockDynamic 0) ∧
  decode ⟨.bh3, 0b00_1⟩ = .error .unusedSymbol

/-- The opcode map (R91) with its operands (R92), by match and mask: each legal word decodes to its
command, and a word of a reserved opcode, whatever its other bits, to an instruction whose whole
meaning is `ILLEGAL()`. -/
def Obligations.OpcodeMap : Prop :=
  ∀ w : CmdWord,
    (w = 0x0000 → decodeCmd w = .ok .nop) ∧
    (w &&& 0xFF00 = 0x1000 → decodeCmd w = .ok (.push (cmdArg w))) ∧
    (w = 0x2000 → decodeCmd w = .ok .eoi) ∧
    (w = 0x3000 → decodeCmd w = .ok .pop) ∧
    (w &&& 0xFF00 = 0x4000 → decodeCmd w = .ok (.readReg (cmdArg w))) ∧
    (w = 0x5000 → decodeCmd w = .ok .abort) ∧
    (w = 0xF000 → decodeCmd w = .ok .softReset) ∧
    (6 ≤ (cmdOpc w).toNat ∧ (cmdOpc w).toNat ≤ 14 →
      ∃ i, decodeCmd w = .ok i ∧ ∀ s, exec i s = .next s.illegal)

/-- An illegal word (R94) has no effect but the fault `ILLEGAL_CMD` (R309): outside `FAULT` the fault
entry with code 3, in `FAULT` nothing, and the response is 0. -/
def Obligations.IllegalWords : Prop :=
  ∀ (s : State) (w : CmdWord) (rest : List Turn), s.turns = .cmd w :: rest → illegalWord w →
    (s.phase ≠ .fault →
      step s = .next { s with turns := rest, faultcode := 3, phase := .fault, oq := [], bitq := [],
                              resp := 0 }) ∧
    (s.phase = .fault → step s = .next { s with turns := rest, resp := 0 })

/-! ## The step -/

/-- A step takes the first turn and runs it: a command word that decodes is run by `exec` (R300), an
element that decodes likewise (log 5), the core agent's turn by `coreTurn` (R280), the reset input
by RESET() (R312). With no turn listed the core agent moves (log 8). -/
def Obligations.StepRunsDecoded : Prop :=
  ∀ (s : State) (rest : List Turn),
    (∀ w i, s.turns = .cmd w :: rest → decodeCmd w = .ok i →
      i.wf = true ∧ step s = exec i { s with turns := rest }) ∧
    (∀ c i, s.turns = .elem c :: rest → c.fmt ≠ .cmd16 → decode c = .ok i →
      step s = exec i { s with turns := rest }) ∧
    (s.turns = .core :: rest → step s = State.coreTurn { s with turns := rest }) ∧
    (s.turns = .rst :: rest → step s = .next (State.doReset { s with turns := rest })) ∧
    (s.turns = [] → step s = s.coreTurn)

/-- A table word put where the next step takes its instruction is the instruction that step runs, and
nothing else of the state is changed by it (log 7, log 8). -/
def Obligations.FetchedWordRuns : Prop :=
  ∀ (s : State) (nbits w : Nat) (i : Instr), decodeTableWord nbits w = some i →
    step (s.withFetchWord nbits w) = exec i s

/-! ## Reset -/

/-- The reset state has every value of the table of R51. -/
def Obligations.ResetState : Prop := ResetFields State.reset

/-- SOFT_RESET (R308) and the reset input (R312) give the state RESET() gives (R371), from any state;
SOFT_RESET responds 0, and STATUS becomes 1. That the turns to come are kept is the model's choice
(DESIGN CHOICE, log 9). -/
def Obligations.ResetOperation : Prop :=
  ∀ (s : State) (rest : List Turn),
    (∃ t, exec .softReset s = .next t ∧ ResetFields t ∧ t.status = 1 ∧ t.resp = 0 ∧
      t.turns = s.turns) ∧
    (s.turns = .rst :: rest →
      ∃ t, step s = .next t ∧ ResetFields t ∧ t.status = 1 ∧ t.turns = rest)

/-! ## Commands -/

/-- NOP (R302): response 0 and no other effect. -/
def Obligations.NopResult : Prop := ∀ s : State, exec .nop s = .next { s with resp := 0 }

/-- PUSH (R303), its five outcomes in the order of their checks: in `FAULT`, after EOI, with the
lookahead full, at the position limit, and accepted. An accepted byte is what the input store then
holds at position `R` (c), every other position reads as before, and the ring index it is written at
is that of no position still in the window or the lookahead (b). -/
def Obligations.PushResult : Prop :=
  ∀ (s : State) (b : Byte),
    (s.phase = .fault → exec (.push b) s = .next { s with resp := 0 }) ∧
    (s.phase ≠ .fault → s.eoi = true →
      exec (.push b) s =
        .next { s with faultcode := 1, phase := .fault, oq := [], bitq := [], resp := 0 }) ∧
    (s.phase ≠ .fault → s.eoi = false → Config.laCap ≤ s.r - s.p →
      exec (.push b) s = .next { s with resp := 0 }) ∧
    (s.phase ≠ .fault → s.eoi = false → s.r - s.p < Config.laCap →
      s.r + 1 = 2 ^ Config.posWidth →
      exec (.push b) s =
        .next { s with faultcode := 7, phase := .fault, oq := [], bitq := [], resp := 0 }) ∧
    (s.phase ≠ .fault → s.eoi = false → s.r - s.p < Config.laCap →
      s.r + 1 ≠ 2 ^ Config.posWidth →
      exec (.push b) s =
          .next { s with
            store := s.store.write s.r b, r := s.r + 1, crc := Config.crcStep b s.crc,
            isize := s.isize + 1, resp := 1 } ∧
        (s.store.write s.r b).read s.r = some b ∧
        (∀ q, q ≠ s.r → (s.store.write s.r b).read q = s.store.read q) ∧
        (CursorInv s → ∀ q, s.wstart ≤ q → q < s.r → ringIndex q ≠ ringIndex s.r))

/-- EOI (R304), its three outcomes: in `FAULT`, a second EOI, and one that takes effect, after which
`EOI_SEEN` is 1 and `IN_READY` is 0. -/
def Obligations.EoiResult : Prop :=
  ∀ s : State,
    (s.phase = .fault → exec .eoi s = .next { s with resp := 0 }) ∧
    (s.phase ≠ .fault → s.eoi = true →
      exec .eoi s =
        .next { s with faultcode := 2, phase := .fault, oq := [], bitq := [], resp := 0 }) ∧
    (s.phase ≠ .fault → s.eoi = false →
      exec .eoi s = .next { s with eoi := true, resp := 0 } ∧
        State.eoiSeen { s with eoi := true, resp := 0 } = true ∧
        State.inReady { s with eoi := true, resp := 0 } = false)

/-- POP (R305): an empty FIFO responds 0; else the head is removed, and the response holds its byte in
bits 7:0, `VALID` in bit 8, `LAST` in bit 9 and 0 above. -/
def Obligations.PopResult : Prop :=
  ∀ s : State,
    (s.oq = [] → exec .pop s = .next { s with resp := 0 }) ∧
    (∀ e rest, s.oq = e :: rest →
      ∃ w : Word, exec .pop s = .next { s with oq := rest, resp := w } ∧
        w.setWidth 8 = e.byte ∧ w.getLsbD 8 = true ∧ w.getLsbD 9 = e.last ∧
        ∀ i, 10 ≤ i → w.getLsbD i = false)

/-- READ_REG (R306): the response is the register of the map (R39), 0 for a reserved index (R49), and
nothing else changes. -/
def Obligations.ReadRegResult : Prop :=
  ∀ (s : State) (idx : Byte), ∃ v : Word, exec (.readReg idx) s = .next { s with resp := v } ∧
    (idx = 0 → v = s.status) ∧
    (idx = 1 → v = s.isize) ∧
    (idx = 2 → v = s.crc) ∧
    (idx = 3 → v = s.symcount) ∧
    (idx = 4 → v = s.blocks) ∧
    (idx = 5 → v = Config.coreId) ∧
    (idx = 6 → v.toNat = s.p % 2 ^ 32) ∧
    (idx = 7 → v.toNat = s.faultcode.toNat) ∧
    (idx = 8 → s.oq.length < 2 ^ 32 → v.toNat = s.oq.length) ∧
    (9 ≤ idx.toNat → v = 0)

/-- The bits of STATUS (R40), and its value at reset. -/
def Obligations.StatusBits : Prop :=
  (∀ s : State,
    (s.status.getLsbD 0 = true ↔
      s.phase ≠ .fault ∧ s.eoi = false ∧ s.r - s.p < Config.laCap) ∧
    (s.status.getLsbD 1 = true ↔ 0 < s.oq.length) ∧
    (s.status.getLsbD 2 = true ↔ s.eoi = true) ∧
    (s.status.getLsbD 3 = true ↔ s.phase = .done) ∧
    (s.status.getLsbD 4 = true ↔ s.phase = .fault) ∧
    s.status.extractLsb' 5 3 = 0 ∧
    (s.phase = .encode → s.status.extractLsb' 8 3 = 0) ∧
    (s.phase = .flush → s.status.extractLsb' 8 3 = 1) ∧
    (s.phase = .drain → s.status.extractLsb' 8 3 = 2) ∧
    (s.phase = .drainFinal → s.status.extractLsb' 8 3 = 3) ∧
    (s.phase = .done → s.status.extractLsb' 8 3 = 4) ∧
    (s.phase = .fault → s.status.extractLsb' 8 3 = 5) ∧
    s.status.extractLsb' 11 21 = 0) ∧
  State.reset.status = 0x00000001

/-- ABORT (R307): fault `INPUT_ABORT` outside `FAULT`, no effect in it, and response 0. -/
def Obligations.AbortResult : Prop :=
  ∀ s : State,
    (s.phase ≠ .fault →
      exec .abort s =
        .next { s with faultcode := 4, phase := .fault, oq := [], bitq := [], resp := 0 }) ∧
    (s.phase = .fault → exec .abort s = .next { s with resp := 0 })

/-- The reserved opcodes 0x6 to 0xE (R309): each raises `ILLEGAL_CMD` outside `FAULT`, whatever its
other bits, and has no effect in it. -/
def Obligations.ReservedOpcodes : Prop :=
  ∀ (s : State) (arg : BitVec 12),
    ∀ i ∈ [Instr.reservedOpc6 arg, .reservedOpc7 arg, .reservedOpc8 arg, .reservedOpc9 arg,
           .reservedOpcA arg, .reservedOpcB arg, .reservedOpcC arg, .reservedOpcD arg,
           .reservedOpcE arg],
      (s.phase ≠ .fault →
        exec i s =
          .next { s with faultcode := 3, phase := .fault, oq := [], bitq := [], resp := 0 }) ∧
      (s.phase = .fault → exec i s = .next { s with resp := 0 })

/-! ## Faults and phases -/

/-- Fault entry (R341) with the codes of R342: the code is kept, the phase is `FAULT`, `OQ` and `BITQ`
are emptied, a host command responds 0, and every other element keeps its value. -/
def Obligations.FaultEntry : Prop :=
  (∀ (s : State) (c : FaultCode),
    s.raise c = { s with faultcode := c.code, phase := .fault, oq := [], bitq := [] } ∧
    s.raiseHost c = { s with faultcode := c.code, phase := .fault, oq := [], bitq := [], resp := 0 }) ∧
  FaultCode.pushAfterEoi.code = 1 ∧ FaultCode.eoiTwice.code = 2 ∧ FaultCode.illegalCmd.code = 3 ∧
  FaultCode.inputAbort.code = 4 ∧ FaultCode.limitNoCandidate.code = 5 ∧
  FaultCode.emptyAlphabet.code = 6 ∧ FaultCode.positionOverflow.code = 7 ∧
  FaultCode.symbufOverflow.code = 8

/-- In `FAULT`, no command but a reset and no core step leaves the phase, and the first fault's code
stays (R344, R345); every such step answers a next state. -/
def Obligations.FaultSticky : Prop :=
  ∀ s : State, s.phase = .fault → s.nextTurn.isReset = false → s.nextTurn.isElem = false →
    ∃ t, step s = .next t ∧ t.phase = .fault ∧ t.faultcode = s.faultcode

/-- In `FAULT` (R310) PUSH, EOI, ABORT and illegal words have no effect and respond 0, NOP, READ_REG
and SOFT_RESET act as usual, and POP finds the FIFO empty. -/
def Obligations.CommandsInFault : Prop :=
  ∀ s : State, s.phase = .fault → PhaseInv s →
    (∀ b, exec (.push b) s = .next { s with resp := 0 }) ∧
    exec .eoi s = .next { s with resp := 0 } ∧
    exec .abort s = .next { s with resp := 0 } ∧
    (∀ w rest, illegalWord w →
      step { s with turns := .cmd w :: rest } = .next { s with turns := rest, resp := 0 }) ∧
    exec .nop s = .next { s with resp := 0 } ∧
    exec .pop s = .next { s with resp := 0 } ∧
    (∀ idx, exec (.readReg idx) s = .next { s with resp := s.readReg idx }) ∧
    (∃ t, exec .softReset s = .next t ∧ ResetFields t)

/-- In `DONE` (R311) PUSH, EOI, ABORT and illegal words raise their faults, NOP, POP, READ_REG and
SOFT_RESET act as usual, and the core takes no step (R287). -/
def Obligations.CommandsInDone : Prop :=
  ∀ s : State, s.phase = .done → PhaseInv s →
    (∀ b, exec (.push b) s = .next (s.raiseHost .pushAfterEoi)) ∧
    exec .eoi s = .next (s.raiseHost .eoiTwice) ∧
    exec .abort s = .next (s.raiseHost .inputAbort) ∧
    (∀ w rest, illegalWord w →
      step { s with turns := .cmd w :: rest } =
        .next (State.raiseHost { s with turns := rest } .illegalCmd)) ∧
    exec .nop s = .next { s with resp := 0 } ∧
    (s.oq = [] → exec .pop s = .next { s with resp := 0 }) ∧
    (∀ e rest, s.oq = e :: rest →
      exec .pop s = .next { s with oq := rest, resp := popResponse e }) ∧
    (∀ idx, exec (.readReg idx) s = .next { s with resp := s.readReg idx }) ∧
    (∃ t, exec .softReset s = .next t ∧ ResetFields t) ∧
    s.coreTurn = .next s

/-- Only an accepted PUSH changes `R`, `CRC` or `ISIZE`, and none is accepted after EOI (R23, R24,
R378): outside a reset, a step that changes one of them is a PUSH taken with `EOI = 0`, and a step
from a state with `EOI = 1` keeps all four. -/
def Obligations.OnlyPushChangesInput : Prop :=
  ∀ s t : State, step s = .next t → s.nextTurn.isReset = false →
    (s.eoi = true → t.eoi = true ∧ t.r = s.r ∧ t.crc = s.crc ∧ t.isize = s.isize) ∧
    (t.r ≠ s.r ∨ t.crc ≠ s.crc ∨ t.isize ≠ s.isize →
      ∃ b : Byte, s.nextTurn = .cmd (0x10#8 ++ b) ∧ s.eoi = false ∧ t.resp = 1 ∧ t.r = s.r + 1 ∧
        t.crc = Config.crcStep b s.crc ∧ t.isize = s.isize + 1)

/-- Between a register read and the host's next command (R380), however many core steps run: where
`IN_READY` was set, the next PUSH is accepted, unless it would make `R` reach `2^POS_WIDTH`; where
`OUT_VALID` was set, the FIFO still holds an entry, so the next POP has `VALID = 1`. -/
def Obligations.StatusSnapshots : Prop :=
  ∀ (s : State) (n : Nat), Invariant s → s.turns = [] →
    ∃ t : State, Host.Core.run Sys2Proof.core n s = .next t ∧
      (s.status.getLsbD 0 = true →
        t.status.getLsbD 0 = true ∧
          (t.r + 1 ≠ 2 ^ Config.posWidth →
            ∀ b, ∃ u, exec (.push b) t = .next u ∧ u.r = t.r + 1 ∧ u.resp = 1)) ∧
      (s.status.getLsbD 1 = true →
        ∃ u, exec .pop t = .next u ∧ u.resp.getLsbD 8 = true)

/-! ## Elements of the stream -/

/-- A literal, EOB and the 29 length symbols: each appends its LL code and its extra bits with the
payload's tables and changes nothing else (R252, R102, R104). That an element runs by itself, and with
which tables, is the model's choice (log 5). -/
def Obligations.LiteralLengthElements : Prop :=
  ∀ s : State,
    (∀ b : Byte, exec (.lit b) s = .next (s.afterLL b.toNat 0 0)) ∧
    exec .eob s = .next (s.afterLL 256 0 0) ∧
    exec .len257 s = .next (s.afterLL 257 0 0) ∧
    exec .len258 s = .next (s.afterLL 258 0 0) ∧
    exec .len259 s = .next (s.afterLL 259 0 0) ∧
    exec .len260 s = .next (s.afterLL 260 0 0) ∧
    exec .len261 s = .next (s.afterLL 261 0 0) ∧
    exec .len262 s = .next (s.afterLL 262 0 0) ∧
    exec .len263 s = .next (s.afterLL 263 0 0) ∧
    exec .len264 s = .next (s.afterLL 264 0 0) ∧
    (∀ xv, exec (.len265 xv) s = .next (s.afterLL 265 xv.toNat 1)) ∧
    (∀ xv, exec (.len266 xv) s = .next (s.afterLL 266 xv.toNat 1)) ∧
    (∀ xv, exec (.len267 xv) s = .next (s.afterLL 267 xv.toNat 1)) ∧
    (∀ xv, exec (.len268 xv) s = .next (s.afterLL 268 xv.toNat 1)) ∧
    (∀ xv, exec (.len269 xv) s = .next (s.afterLL 269 xv.toNat 2)) ∧
    (∀ xv, exec (.len270 xv) s = .next (s.afterLL 270 xv.toNat 2)) ∧
    (∀ xv, exec (.len271 xv) s = .next (s.afterLL 271 xv.toNat 2)) ∧
    (∀ xv, exec (.len272 xv) s = .next (s.afterLL 272 xv.toNat 2)) ∧
    (∀ xv, exec (.len273 xv) s = .next (s.afterLL 273 xv.toNat 3)) ∧
    (∀ xv, exec (.len274 xv) s = .next (s.afterLL 274 xv.toNat 3)) ∧
    (∀ xv, exec (.len275 xv) s = .next (s.afterLL 275 xv.toNat 3)) ∧
    (∀ xv, exec (.len276 xv) s = .next (s.afterLL 276 xv.toNat 3)) ∧
    (∀ xv, exec (.len277 xv) s = .next (s.afterLL 277 xv.toNat 4)) ∧
    (∀ xv, exec (.len278 xv) s = .next (s.afterLL 278 xv.toNat 4)) ∧
    (∀ xv, exec (.len279 xv) s = .next (s.afterLL 279 xv.toNat 4)) ∧
    (∀ xv, exec (.len280 xv) s = .next (s.afterLL 280 xv.toNat 4)) ∧
    (∀ xv, exec (.len281 xv) s = .next (s.afterLL 281 xv.toNat 5)) ∧
    (∀ xv, exec (.len282 xv) s = .next (s.afterLL 282 xv.toNat 5)) ∧
    (∀ xv, exec (.len283 xv) s = .next (s.afterLL 283 xv.toNat 5)) ∧
    (∀ xv, exec (.len284 xv) s = .next (s.afterLL 284 xv.toNat 5)) ∧
    exec .len285 s = .next (s.afterLL 285 0 0)

/-- The 30 distance symbols: each appends its distance code and its extra bits with the payload's
tables and changes nothing else (R252, R103, R104). That an element runs by itself, and with which
tables, is the model's choice (log 5). -/
def Obligations.DistanceElements : Prop :=
  ∀ s : State,
    exec .dist0 s = .next (s.afterD 0 0 0) ∧
    exec .dist1 s = .next (s.afterD 1 0 0) ∧
    exec .dist2 s = .next (s.afterD 2 0 0) ∧
    exec .dist3 s = .next (s.afterD 3 0 0) ∧
    (∀ xv, exec (.dist4 xv) s = .next (s.afterD 4 xv.toNat 1)) ∧
    (∀ xv, exec (.dist5 xv) s = .next (s.afterD 5 xv.toNat 1)) ∧
    (∀ xv, exec (.dist6 xv) s = .next (s.afterD 6 xv.toNat 2)) ∧
    (∀ xv, exec (.dist7 xv) s = .next (s.afterD 7 xv.toNat 2)) ∧
    (∀ xv, exec (.dist8 xv) s = .next (s.afterD 8 xv.toNat 3)) ∧
    (∀ xv, exec (.dist9 xv) s = .next (s.afterD 9 xv.toNat 3)) ∧
    (∀ xv, exec (.dist10 xv) s = .next (s.afterD 10 xv.toNat 4)) ∧
    (∀ xv, exec (.dist11 xv) s = .next (s.afterD 11 xv.toNat 4)) ∧
    (∀ xv, exec (.dist12 xv) s = .next (s.afterD 12 xv.toNat 5)) ∧
    (∀ xv, exec (.dist13 xv) s = .next (s.afterD 13 xv.toNat 5)) ∧
    (∀ xv, exec (.dist14 xv) s = .next (s.afterD 14 xv.toNat 6)) ∧
    (∀ xv, exec (.dist15 xv) s = .next (s.afterD 15 xv.toNat 6)) ∧
    (∀ xv, exec (.dist16 xv) s = .next (s.afterD 16 xv.toNat 7)) ∧
    (∀ xv, exec (.dist17 xv) s = .next (s.afterD 17 xv.toNat 7)) ∧
    (∀ xv, exec (.dist18 xv) s = .next (s.afterD 18 xv.toNat 8)) ∧
    (∀ xv, exec (.dist19 xv) s = .next (s.afterD 19 xv.toNat 8)) ∧
    (∀ xv, exec (.dist20 xv) s = .next (s.afterD 20 xv.toNat 9)) ∧
    (∀ xv, exec (.dist21 xv) s = .next (s.afterD 21 xv.toNat 9)) ∧
    (∀ xv, exec (.dist22 xv) s = .next (s.afterD 22 xv.toNat 10)) ∧
    (∀ xv, exec (.dist23 xv) s = .next (s.afterD 23 xv.toNat 10)) ∧
    (∀ xv, exec (.dist24 xv) s = .next (s.afterD 24 xv.toNat 11)) ∧
    (∀ xv, exec (.dist25 xv) s = .next (s.afterD 25 xv.toNat 11)) ∧
    (∀ xv, exec (.dist26 xv) s = .next (s.afterD 26 xv.toNat 12)) ∧
    (∀ xv, exec (.dist27 xv) s = .next (s.afterD 27 xv.toNat 12)) ∧
    (∀ xv, exec (.dist28 xv) s = .next (s.afterD 28 xv.toNat 13)) ∧
    (∀ xv, exec (.dist29 xv) s = .next (s.afterD 29 xv.toNat 13))

/-- The 19 CL symbols: each appends its code and its extra bits with the block's CL code and changes
nothing else (R251, R101). That an element runs by itself is the model's choice (log 5). -/
def Obligations.CodeLengthElements : Prop :=
  ∀ s : State,
    exec .clLen0 s = .next (s.afterCL 0 0 0) ∧
    exec .clLen1 s = .next (s.afterCL 1 0 0) ∧
    exec .clLen2 s = .next (s.afterCL 2 0 0) ∧
    exec .clLen3 s = .next (s.afterCL 3 0 0) ∧
    exec .clLen4 s = .next (s.afterCL 4 0 0) ∧
    exec .clLen5 s = .next (s.afterCL 5 0 0) ∧
    exec .clLen6 s = .next (s.afterCL 6 0 0) ∧
    exec .clLen7 s = .next (s.afterCL 7 0 0) ∧
    exec .clLen8 s = .next (s.afterCL 8 0 0) ∧
    exec .clLen9 s = .next (s.afterCL 9 0 0) ∧
    exec .clLen10 s = .next (s.afterCL 10 0 0) ∧
    exec .clLen11 s = .next (s.afterCL 11 0 0) ∧
    exec .clLen12 s = .next (s.afterCL 12 0 0) ∧
    exec .clLen13 s = .next (s.afterCL 13 0 0) ∧
    exec .clLen14 s = .next (s.afterCL 14 0 0) ∧
    exec .clLen15 s = .next (s.afterCL 15 0 0) ∧
    (∀ xv, exec (.cl16 xv) s = .next (s.afterCL 16 xv.toNat 2)) ∧
    (∀ xv, exec (.cl17 xv) s = .next (s.afterCL 17 xv.toNat 3)) ∧
    (∀ xv, exec (.cl18 xv) s = .next (s.afterCL 18 xv.toNat 7))

/-- A fixed block (R242): `BFINAL`, the bits 1, 0 of `BTYPE = 1`, each Symbol with the fixed codes,
and the 7-bit EOB code of zeros; everything else stays, but for the model's own note of the block
kind (log 5). -/
def Obligations.FixedBlockElement : Prop :=
  ∀ (s : State) (f : BitVec 1),
    exec (.blockFixed f) s =
      .next { s with
        kind := .fixed
        bitq := s.bitq ++ ([f.getLsbD 0, true, false] ++
          (s.sym.flatMap (symBits fixedTables) ++ List.replicate 7 false)) }

/-- A dynamic block (R251): for every state its tables are built without a fault (R187, R190), and
the block is `BFINAL`, the bits 0, 1 of `BTYPE = 2`, `HLIT`, `HDIST`, `HCLEN`, the `HCLEN + 4` code
lengths of the CL alphabet, the CL symbol stream, and the payload. That the block runs as an element by
itself, and the note of the block kind, are the model's choice (DESIGN CHOICE, log 5). -/
def Obligations.DynamicBlockElement : Prop :=
  ∀ (s : State) (f : BitVec 1), ∃ w, buildDynamicTables s.freqLL s.freqD = .ok w ∧
    exec (.blockDynamic f) s =
      .next { s with
        kind := .dynamic
        work := w
        bitq := s.bitq ++ ([f.getLsbD 0, false, true] ++
          (fieldBits w.hlit.toNat 5 ++ fieldBits w.hdist.toNat 5 ++ fieldBits w.hclen.toNat 4 ++
            ((List.range (w.hclen.toNat + 4)).flatMap fun i => fieldBits (entry w.perm i).toNat 3) ++
            (w.cls.flatMap fun e =>
              codeBits (entry w.codeCL e.v).toNat (entry w.lenCL e.v).toNat ++
                fieldBits e.xv e.xb)) ++
          (s.sym.flatMap (symBits w.tables) ++
            codeBits (entry w.codeLL 256).toNat (entry w.lenLL 256).toNat)) }

/-- WRITE_PAYLOAD (R252, R105) is its elements one after another: a well-formed block buffer spells a
list of well-formed instructions, and running them and EOB appends exactly the payload. That elements
run one after another by `exec`, and with which tables, is the model's choice (DESIGN CHOICE, log 5),
and so is the layout of the words the Symbols are matched by (DESIGN CHOICE, log 6). -/
def Obligations.PayloadByElements : Prop :=
  ∀ s : State, symsOk s.sym = true →
    ∃ l : List Instr, l.map encode = s.sym.map Sym.code ∧ (∀ i ∈ l, i.wf = true) ∧
      execAll (l ++ [.eob]) s =
        .next { s with
          bitq := s.bitq ++ (s.sym.flatMap (symBits s.payloadTables) ++
            codeBits (entry s.payloadTables.codeLL 256).toNat
              (entry s.payloadTables.lenLL 256).toNat) }

/-! ## The bit queue -/

/-- PutBits (R270) and PutCode (R271) bit by bit. -/
def Obligations.PutBitsPutCode : Prop :=
  ∀ (s : State) (v n : Nat),
    (∃ l : List Bool, s.putBits v n = { s with bitq := s.bitq ++ l } ∧ l.length = n ∧
      ∀ i, i < n → l.getD i false = v.testBit i) ∧
    (∃ l : List Bool, s.putCode v n = { s with bitq := s.bitq ++ l } ∧ l.length = n ∧
      ∀ i, i < n → l.getD i false = v.testBit (n - 1 - i))

/-- PAD_TO_BYTE (R274): zero bits, the fewest that end the queue at a byte boundary. -/
def Obligations.PadToByte : Prop :=
  ∀ s : State, ∃ k, k < 8 ∧
    s.padToByte = { s with bitq := s.bitq ++ List.replicate k false } ∧
    s.padToByte.bitq.length % 8 = 0 ∧ (s.bitq.length % 8 = 0 → k = 0)

/-- Byte assembly (R272, R75, R277): stream bit `k` is bit `k mod 8` of byte `k / 8`, and `n` bits
make `n / 8` bytes, rounded up. -/
def Obligations.ByteAssembly : Prop :=
  ∀ l : List Bool,
    (packBytes l.length l).length = (l.length + 7) / 8 ∧
    ∀ k, k < l.length →
      ((packBytes l.length l).getD (k / 8) 0).getLsbD (k % 8) = l.getD k false

/-- DRAIN_BYTE (R275): where it is enabled, the core's turn moves the first 8 bits to the FIFO as one
byte, with `last` set exactly when the final block's queue is then empty, and the phase follows. -/
def Obligations.DrainByte : Prop :=
  ∀ s : State, (s.phase = .drain ∨ s.phase = .drainFinal) → 8 ≤ s.bitq.length →
    s.oq.length < Config.oqDepth →
    ∃ (b : Byte) (last : Bool) (ph : Phase),
      s.coreTurn =
        .next { s with bitq := s.bitq.drop 8, oq := s.oq ++ [⟨b, last⟩], phase := ph } ∧
      (∀ i, i < 8 → b.getLsbD i = s.bitq.getD i false) ∧
      (last = true ↔ s.phase = .drainFinal ∧ s.bitq.length = 8) ∧
      (16 ≤ s.bitq.length → ph = s.phase) ∧
      (s.bitq.length < 16 → s.phase = .drain → ph = .encode) ∧
      (s.bitq.length < 16 → s.phase = .drainFinal → ph = .done)

/-! ## The core agent -/

/-- When each core step is enabled (R280), and that no two are (R288): the enabled step is a function
of the state. -/
def Obligations.EnabledSteps : Prop :=
  ∀ s : State,
    (s.enabledStep = some .encodeStep ↔
      s.phase = .encode ∧ s.p < s.r ∧ (s.eoi = true ∨ 260 ≤ s.r - s.p)) ∧
    (s.enabledStep = some .flush ↔ s.phase = .flush) ∧
    (s.enabledStep = some .drainByte ↔
      (s.phase = .drain ∨ s.phase = .drainFinal) ∧ 8 ≤ s.bitq.length ∧
        s.oq.length < Config.oqDepth) ∧
    (s.enabledStep = some .finish ↔ s.phase = .encode ∧ s.eoi = true ∧ s.p = s.r)

/-- Stalls (R292): outside `DONE` and `FAULT` no step is enabled in exactly two ways, and then the
core's turn changes nothing. -/
def Obligations.Stalls : Prop :=
  ∀ s : State, CursorInv s → PhaseInv s → s.phase ≠ .done → s.phase ≠ .fault →
    (s.enabledStep = none ↔
      (s.phase = .encode ∧ s.eoi = false ∧ s.r - s.p < 260) ∨
      ((s.phase = .drain ∨ s.phase = .drainFinal) ∧ Config.oqDepth ≤ s.oq.length)) ∧
    (s.enabledStep = none → s.coreTurn = .next s)

/-- ENCODE_STEP (R282, R283), where it is enabled: it completes, as a literal when FIND_BEST_MATCH
answers no usable match and as a length/distance pair else, and the flush trigger sets the phase.
The CONSUMEs leave the store and the index exactly as their invariants say for the new cursor (R25,
R152), and everything the step does not write keeps its value. -/
def Obligations.EncodeStepResult : Prop :=
  ∀ s : State, Invariant s → s.phase = .encode → s.p < s.r →
    (s.eoi = true ∨ 260 ≤ s.r - s.p) →
    ∃ c t, s.findBestMatch s.p (s.r - s.p) = some c ∧ s.coreTurn = .next t ∧
      (c.length < 3 → ∃ b, s.winRead s.p = some b ∧ t.sym = s.sym ++ [.lit b] ∧
        t.symcount = s.symcount + 1 ∧ t.p = s.p + 1 ∧ t.freqD = s.freqD ∧
        ∀ i, i < 286 →
          entry t.freqLL i = entry s.freqLL i + (if i = b.toNat then 1 else 0)) ∧
      (3 ≤ c.length → ∃ l d, lenCode c.length = some l ∧ distCode c.distance = some d ∧
        t.sym = s.sym ++ [.len l.sym l.xv l.xb, .dist d.sym d.xv d.xb] ∧
        t.symcount = s.symcount + 2 ∧ t.p = s.p + c.length ∧
        (∀ i, i < 286 →
          entry t.freqLL i = entry s.freqLL i + (if i = l.sym then 1 else 0)) ∧
        (∀ i, i < 30 →
          entry t.freqD i = entry s.freqD i + (if i = d.sym then 1 else 0))) ∧
      t.phase = (if 800000 < t.symcount.toNat then .flush else .encode) ∧
      (∀ q, t.wstart ≤ q → t.store.read q = s.store.read q) ∧ StoreInv t ∧ IndexInv t ∧
      t.r = s.r ∧ t.eoi = s.eoi ∧ t.bitq = s.bitq ∧ t.oq = s.oq ∧ t.isize = s.isize ∧
      t.crc = s.crc ∧ t.blocks = s.blocks ∧ t.faultcode = s.faultcode ∧ t.work = s.work ∧
      t.resp = s.resp ∧ t.kind = s.kind ∧ t.freeCtr = s.freeCtr ∧ t.turns = s.turns

/-- What an ENCODE_STEP appends spells the bytes it moves past: a literal is the byte at the cursor,
and a pair's length and distance point at equal bytes in the window (R166 (3), R104, R282). -/
def Obligations.EncodeLossless : Prop :=
  ∀ s : State, Invariant s → s.phase = .encode → s.p < s.r →
    (s.eoi = true ∨ 260 ≤ s.r - s.p) →
    ∃ t, s.coreTurn = .next t ∧
      ((∃ b, s.winRead s.p = some b ∧ t.sym = s.sym ++ [.lit b] ∧ t.p = s.p + 1) ∨
       (∃ ls lx lb ds dx db, t.sym = s.sym ++ [.len ls lx lb, .dist ds dx db] ∧
          lenOk ls lx lb = true ∧ distOk ds dx db = true ∧
          3 ≤ lengthOf ls lx ∧ lengthOf ls lx ≤ 258 ∧ t.p = s.p + lengthOf ls lx ∧
          1 ≤ distanceOf ds dx ∧ distanceOf ds dx ≤ 32768 ∧ distanceOf ds dx ≤ s.p ∧
          ∀ k, k < lengthOf ls lx →
            (s.winRead (s.p + k)).isSome = true ∧
              s.winRead (s.p - distanceOf ds dx + k) = s.winRead (s.p + k)))

/-- An ENCODE_STEP before end of input computes what it would with more input present (R281): one more
accepted byte before the step or after it leads to the same state. -/
def Obligations.EncodeIgnoresLaterInput : Prop :=
  ∀ (s : State) (b : Byte), Invariant s → s.phase = .encode → s.eoi = false →
    260 ≤ s.r - s.p →
    ∃ u, s.coreTurn = .next u ∧ (s.acceptByte b).coreTurn = .next (u.acceptByte b)

/-! ## The match finder -/

/-- With 4 bytes available, a match of at least 3 is found exactly when an earlier window position
has the cursor's 3-byte prefix (R166 (1) and (2)); with fewer, no match is attempted (R158). -/
def Obligations.MatchExists : Prop :=
  ∀ s : State, Invariant s →
    (s.r - s.p < 4 → s.findBestMatch s.p (s.r - s.p) = some ⟨0, 0⟩) ∧
    (4 ≤ s.r - s.p →
      ∃ c, s.findBestMatch s.p (s.r - s.p) = some c ∧
        (3 ≤ c.length ↔ ∃ q, s.wstart ≤ q ∧ q < s.p ∧ s.keyAt q = s.keyAt s.p) ∧
        (c.length < 3 → c = ⟨0, 0⟩))

/-- The comparison of R156 counts the equal bytes up to its cap; the match returned is the first of
the key's list that no later one beats (R160), every earlier one is shorter and below the early-exit
length, and a match of 250 or more ends the scan (R161). -/
def Obligations.MatchPolicy : Prop :=
  (∀ (s : State) (q p n k : Nat), s.matchFrom q p n 0 = some k →
    k ≤ n ∧
    (∀ j, j < k → ∃ b, s.winRead (q + j) = some b ∧ s.winRead (p + j) = some b) ∧
    (k < n → ∃ a b, s.winRead (q + k) = some a ∧ s.winRead (p + k) = some b ∧ a ≠ b)) ∧
  (∀ (s : State) (p avail : Nat) (c : Candidate), s.findBestMatch p avail = some c →
    3 ≤ c.length →
    ∃ key l1 q l2, s.keyAt p = some key ∧ s.pindex.get key = l1 ++ q :: l2 ∧
      c.distance = p - q ∧ s.matchFrom q p (min 258 avail) 0 = some c.length ∧
      (∀ q' ∈ l1, ∃ k, s.matchFrom q' p (min 258 avail) 0 = some k ∧ k < c.length ∧ k < 250) ∧
      (c.length < 250 →
        ∀ q' ∈ l2, ∃ k, s.matchFrom q' p (min 258 avail) 0 = some k ∧ k ≤ c.length))

/-- Every index entry is a window position, at most 32768 behind the cursor, and the index holds at
most 32768 of them (R155, R71, R167). -/
def Obligations.IndexBounded : Prop :=
  ∀ s : State, IndexInv s →
    s.p - s.wstart ≤ 32768 ∧
    (∀ k, ∀ q ∈ s.pindex.get k, s.wstart ≤ q ∧ q < s.p ∧ 1 ≤ s.p - q ∧ s.p - q ≤ 32768) ∧
    (s.pindex.map fun e => e.2.length).sum ≤ 32768

/-! ## Blocks -/

/-- FLUSH (R284, R256): in phase `FLUSH` the core's turn writes the open block as a non-final dynamic
block, clears the block and its tables, counts it, and drains. The working state it leaves is a free
value (R29; log 3). -/
def Obligations.FlushWritesBlock : Prop :=
  ∀ s : State, s.phase = .flush →
    ∃ w t, buildDynamicTables s.freqLL s.freqD = .ok w ∧ s.coreTurn = .next t ∧
      t.bitq = s.bitq ++ ([false, false, true] ++ tableBits w ++ payloadBits w.tables s.sym) ∧
      t.phase = .drain ∧ t.sym = [] ∧ t.symcount = 0 ∧
      (∀ i, entry t.freqLL i = 0) ∧ (∀ i, entry t.freqD i = 0) ∧ t.blocks = s.blocks + 1 ∧
      t.p = s.p ∧ t.r = s.r ∧ t.eoi = s.eoi ∧ t.store = s.store ∧ t.pindex = s.pindex ∧
      t.oq = s.oq ∧ t.isize = s.isize ∧ t.crc = s.crc ∧ t.faultcode = s.faultcode ∧
      t.resp = s.resp ∧ t.turns = s.turns

/-- FINISH (R286, R254, R256): at the end of input the core's turn writes the final block, fixed below
200 Symbols and dynamic else, pads the stream to a byte, clears the block, counts it, and drains. The
working state it leaves is a free value (R29; log 3). -/
def Obligations.FinishWritesFinal : Prop :=
  ∀ s : State, s.phase = .encode → s.eoi = true → s.p = s.r →
    ∃ block k t, s.coreTurn = .next t ∧
      (s.symcount.toNat < 200 →
        block = [true, true, false] ++ payloadBits fixedTables s.sym) ∧
      (200 ≤ s.symcount.toNat → ∃ w, buildDynamicTables s.freqLL s.freqD = .ok w ∧
        block = [true, false, true] ++ tableBits w ++ payloadBits w.tables s.sym) ∧
      t.bitq = s.bitq ++ block ++ List.replicate k false ∧ k < 8 ∧ t.bitq.length % 8 = 0 ∧
      t.phase = .drainFinal ∧ t.sym = [] ∧ t.symcount = 0 ∧
      (∀ i, entry t.freqLL i = 0) ∧ (∀ i, entry t.freqD i = 0) ∧ t.blocks = s.blocks + 1 ∧
      t.p = s.p ∧ t.r = s.r ∧ t.eoi = s.eoi ∧ t.store = s.store ∧ t.pindex = s.pindex ∧
      t.oq = s.oq ∧ t.isize = s.isize ∧ t.crc = s.crc ∧ t.faultcode = s.faultcode ∧
      t.resp = s.resp ∧ t.turns = s.turns

/-! ## Symbol tables -/

/-- LenCode (R140) row by row of the length partition (R141): every length a row covers has that row's
symbol, the length less the row's first as extra value, and the row's extra bits; base and extra value
give the length back, and the rows cover each length of 3 to 258 once. -/
def Obligations.LengthCodes : Prop :=
  (∀ row ∈ lengthPartition, ∀ l : Nat, l < 259 → row.lo ≤ l → l ≤ row.hi →
    lenCode l = some ⟨row.sym, l - row.lo, row.xb⟩ ∧ lenOk row.sym (l - row.lo) row.xb = true ∧
      lengthOf row.sym (l - row.lo) = l) ∧
  (∀ l : Nat, l < 259 → 3 ≤ l →
    (lengthPartition.filter fun row => decide (row.lo ≤ l ∧ l ≤ row.hi)).length = 1)

/-- DistCode (R142) row by row of the distance partition (R143): every distance a row covers has that
row's symbol, the distance less the row's first as extra value, and the row's extra bits; base and
extra value give the distance back, and the rows cover each distance of 1 to 32768 once. -/
def Obligations.DistanceCodes : Prop :=
  (∀ row ∈ distancePartition, ∀ d : Nat, row.lo ≤ d → d ≤ row.hi →
    distCode d = some ⟨row.sym, d - row.lo, row.xb⟩ ∧ distOk row.sym (d - row.lo) row.xb = true ∧
      distanceOf row.sym (d - row.lo) = d) ∧
  (∀ d : Nat, 1 ≤ d → d ≤ 32768 →
    (distancePartition.filter fun row => decide (row.lo ≤ d ∧ d ≤ row.hi)).length = 1)

/-! ## Code lengths and codes -/

/-- BUILD_LENGTHS faults exactly on a table with no used symbol (R187), and gives a single used symbol
length 1 and every other symbol length 0 (R186). -/
def Obligations.DegenerateAlphabets : Prop :=
  ∀ f : List Nat,
    (buildLengths f = .error .emptyAlphabet ↔ ∀ x ∈ f, x = 0) ∧
    (∀ s, s < f.length → 0 < f.getD s 0 → (∀ j, j ≠ s → f.getD j 0 = 0) →
      buildLengths f = .ok ((List.range f.length).map fun j => if j = s then 1 else 0))

/-- The limited lengths (R192): for a table with a used symbol, and no more symbols than codes of the
limit's length, they exist, none exceeds the limit, exactly the used symbols have one, and the Kraft
sum over them is 1, or 1/2 for a single used symbol. -/
def Obligations.LimitedLengths : Prop :=
  ∀ (f : List Nat) (limit : Nat), 1 ≤ limit → f.length ≤ 2 ^ limit → 0 < usedCount f →
    ∃ len, limitedLengths f limit = .ok len ∧ len.length = f.length ∧
      (∀ x ∈ len, x ≤ limit) ∧
      (∀ s, s < f.length → (1 ≤ len.getD s 0 ↔ 0 < f.getD s 0)) ∧
      (2 ≤ usedCount f → kraftSum len limit = 2 ^ limit) ∧
      (usedCount f = 1 → kraftSum len limit = 2 ^ (limit - 1))

/-- One round of the limiter (R188, R191): the excess falls by at least 2, the Kraft sum stays, and
the same symbols have a length. -/
def Obligations.LimiterRound : Prop :=
  ∀ (len len' : List Nat) (limit : Nat), limit < maxLength len →
    limitRound len limit (maxLength len) = .ok len' →
    len'.length = len.length ∧ excess len' limit + 2 ≤ excess len limit ∧
      kraftSum len' (maxLength len) = kraftSum len (maxLength len) ∧
      ∀ s, 1 ≤ len'.getD s 0 ↔ 1 ≤ len.getD s 0

/-- BUILD_CODES (R211) on lengths of at most 15 with Kraft sum at most 1: every code fits its length;
the codes of one length are consecutive in ascending symbol order; a shorter code, padded with zeros,
is less than every longer one; and no code is a prefix of another. -/
def Obligations.CanonicalCodes : Prop :=
  ∀ len : List Nat, (∀ x ∈ len, x ≤ 15) → kraftSum len 15 ≤ 2 ^ 15 →
    (buildCodes len).length = len.length ∧
    ∀ s t, s < len.length → t < len.length → 0 < len.getD s 0 → 0 < len.getD t 0 →
      (buildCodes len).getD s 0 < 2 ^ len.getD s 0 ∧
      (s < t → len.getD s 0 = len.getD t 0 →
        (buildCodes len).getD t 0 =
          (buildCodes len).getD s 0 + ((len.take t).drop s).count (len.getD s 0)) ∧
      (len.getD s 0 < len.getD t 0 →
        (buildCodes len).getD s 0 * 2 ^ (len.getD t 0 - len.getD s 0) <
          (buildCodes len).getD t 0) ∧
      (s ≠ t → ∀ more : List Bool,
        codeBits ((buildCodes len).getD s 0) (len.getD s 0) ++ more ≠
          codeBits ((buildCodes len).getD t 0) (len.getD t 0))

/-- The fixed codes (R212, R241), row by row. -/
def Obligations.FixedCodes : Prop :=
  (∀ s, s < 144 → (entry fixedTables.lenLL s).toNat = 8 ∧
    (entry fixedTables.codeLL s).toNat = 0x30 + s) ∧
  (∀ s, s < 256 → 144 ≤ s → (entry fixedTables.lenLL s).toNat = 9 ∧
    (entry fixedTables.codeLL s).toNat = 0x190 + (s - 144)) ∧
  (∀ s, s < 280 → 256 ≤ s → (entry fixedTables.lenLL s).toNat = 7 ∧
    (entry fixedTables.codeLL s).toNat = s - 256) ∧
  (∀ s, s < 288 → 280 ≤ s → (entry fixedTables.lenLL s).toNat = 8 ∧
    (entry fixedTables.codeLL s).toNat = 0xC0 + (s - 280)) ∧
  (∀ s, s < 30 → (entry fixedTables.lenD s).toNat = 5 ∧
    (entry fixedTables.codeD s).toNat = s)

/-- ENCODE_CL_STREAM (R226): expanding its symbols gives the lengths back; a 16 never comes first and
the symbol before it is a nonzero literal or another 16; every extra value is in range; and the
stream is no longer than the lengths. -/
def Obligations.ClRoundTrip : Prop :=
  ∀ lens : List Nat, (∀ x ∈ lens, x ≤ 15) →
    expandCl (encodeCl lens) [] = lens ∧
    (∀ before e after, encodeCl lens = before ++ e :: after → e.v = 16 →
      ∃ init y, before = init ++ [y] ∧ ((1 ≤ y.v ∧ y.v ≤ 15) ∨ y.v = 16)) ∧
    (∀ e ∈ encodeCl lens,
      (e.v ≤ 15 ∧ e.xv = 0 ∧ e.xb = 0) ∨ (e.v = 16 ∧ e.xv ≤ 3 ∧ e.xb = 2) ∨
      (e.v = 17 ∧ e.xv ≤ 7 ∧ e.xb = 3) ∨ (e.v = 18 ∧ e.xv ≤ 127 ∧ e.xb = 7)) ∧
    (encodeCl lens).length ≤ lens.length

/-- The tables of a dynamic block (R246 to R250): every counted symbol and EOB has a code of 1 to 15
bits, the header counts are in their ranges, every CL symbol sent has a code of 1 to 7 bits, and the
CL stream spells exactly the lengths the header announces. -/
def Obligations.DynamicTablesFit : Prop :=
  ∀ (fLL : Vector Word 286) (fD : Vector Word 30) (w : Work), buildDynamicTables fLL fD = .ok w →
    (∀ s, s < 286 → 0 < (entry fLL s).toNat → 1 ≤ (entry w.lenLL s).toNat) ∧
    1 ≤ (entry w.lenLL 256).toNat ∧
    (∀ s, s < 30 → 0 < (entry fD s).toNat → 1 ≤ (entry w.lenD s).toNat) ∧
    w.hlit.toNat ≤ 29 ∧ w.hdist.toNat ≤ 29 ∧ 1 ≤ w.hclen.toNat ∧
    (∀ e ∈ w.cls, 1 ≤ (entry w.lenCL e.v).toNat ∧ (entry w.lenCL e.v).toNat ≤ 7) ∧
    expandCl w.cls [] =
      (tableNats w.lenLL).take (w.hlit.toNat + 257) ++ (tableNats w.lenD).take (w.hdist.toNat + 1)

/-! ## Invariants -/

/-- Every invariant of R52 holds at reset. -/
def Obligations.InvariantAtReset : Prop := Invariant State.reset ∧ State.reset.agentsOnly

/-- R52 (7) and (8): the FIFO's depth and `ISIZE = R mod 2^32`, kept by every step. -/
def Obligations.OutputAndSizeKept : Prop :=
  ∀ s t : State, OutInv s → SizeInv s → step s = .next t → OutInv t ∧ SizeInv t

/-- R52 (1), R25: the cursor stays within the input and the lookahead within its capacity, and the
store holds exactly the window and the lookahead, kept by every step. -/
def Obligations.CursorAndStoreKept : Prop :=
  ∀ s t : State, CursorInv s → StoreInv s → step s = .next t → CursorInv t ∧ StoreInv t

/-- R152: the prefix index stays exact, kept by every step. -/
def Obligations.IndexKept : Prop :=
  ∀ s t : State, CursorInv s → StoreInv s → IndexInv s → step s = .next t → IndexInv t

/-- R52 (4) and (5), R27, R182: the block buffer's count, bounds and form, and the frequency tables
that count it, kept by every step. -/
def Obligations.SymbolsAndCountsKept : Prop :=
  ∀ s t : State, SymInv s → FreqInv s → step s = .next t → SymInv t ∧ FreqInv t

/-- R52 (6), R285, R287, R341: what the bit queue and the FIFO hold in each phase, kept by every step
of the spec's agents. -/
def Obligations.PhaseKept : Prop :=
  ∀ s t : State, s.agentsOnly → PhaseInv s → step s = .next t → PhaseInv t

/-- The machine never stops: from every state that meets the invariants, every step of the spec's
agents answers a next state, and that state meets them again (R52, R72). -/
def Obligations.EveryStepSafe : Prop :=
  ∀ s : State, Invariant s → s.agentsOnly → ∃ t, step s = .next t ∧ Invariant t ∧ t.agentsOnly

/-! ## The whole stream -/

/-- Timing independence (R289): in a run from reset without a fault, whatever the interleaving of the
host's commands and the core's steps, once the host has popped the entry with `last = 1` the entries
it popped are DEFLATE_STREAM (R290) of the bytes its accepted PUSHes brought in. -/
def Obligations.TimingIndependence : Prop :=
  ∀ (n : Nat) (turns : List Turn) (v : RunView),
    (∀ x ∈ turns, x.isElem = false ∧ x.isReset = false) →
    viewRun n { State.reset with turns := turns } = some v →
    v.final.phase ≠ .fault → (∃ e ∈ v.popped, e.last = true) →
    ∃ bytes, deflateStream v.pushed = some bytes ∧ v.popped = lastMarked bytes
end

