-- ==== Sys2Proof/Laws/State.lean ====
section
/-! SUPPORT. One lemma per field per named update of the state, each true by `rfl` and tagged for
`simp`: what an update leaves, and what it writes. -/

namespace Sys2Proof.Machine

/-! ## `State.respond` -/

@[simp] theorem State.respond_phase (s : State) (w : Word) :
    (s.respond w).phase = s.phase := rfl
@[simp] theorem State.respond_p (s : State) (w : Word) :
    (s.respond w).p = s.p := rfl
@[simp] theorem State.respond_r (s : State) (w : Word) :
    (s.respond w).r = s.r := rfl
@[simp] theorem State.respond_eoi (s : State) (w : Word) :
    (s.respond w).eoi = s.eoi := rfl
@[simp] theorem State.respond_store (s : State) (w : Word) :
    (s.respond w).store = s.store := rfl
@[simp] theorem State.respond_pindex (s : State) (w : Word) :
    (s.respond w).pindex = s.pindex := rfl
@[simp] theorem State.respond_sym (s : State) (w : Word) :
    (s.respond w).sym = s.sym := rfl
@[simp] theorem State.respond_symcount (s : State) (w : Word) :
    (s.respond w).symcount = s.symcount := rfl
@[simp] theorem State.respond_freqLL (s : State) (w : Word) :
    (s.respond w).freqLL = s.freqLL := rfl
@[simp] theorem State.respond_freqD (s : State) (w : Word) :
    (s.respond w).freqD = s.freqD := rfl
@[simp] theorem State.respond_work (s : State) (w : Word) :
    (s.respond w).work = s.work := rfl
@[simp] theorem State.respond_bitq (s : State) (w : Word) :
    (s.respond w).bitq = s.bitq := rfl
@[simp] theorem State.respond_oq (s : State) (w : Word) :
    (s.respond w).oq = s.oq := rfl
@[simp] theorem State.respond_isize (s : State) (w : Word) :
    (s.respond w).isize = s.isize := rfl
@[simp] theorem State.respond_crc (s : State) (w : Word) :
    (s.respond w).crc = s.crc := rfl
@[simp] theorem State.respond_blocks (s : State) (w : Word) :
    (s.respond w).blocks = s.blocks := rfl
@[simp] theorem State.respond_faultcode (s : State) (w : Word) :
    (s.respond w).faultcode = s.faultcode := rfl
@[simp] theorem State.respond_resp (s : State) (w : Word) :
    (s.respond w).resp = w := rfl
@[simp] theorem State.respond_kind (s : State) (w : Word) :
    (s.respond w).kind = s.kind := rfl
@[simp] theorem State.respond_freeCtr (s : State) (w : Word) :
    (s.respond w).freeCtr = s.freeCtr := rfl
@[simp] theorem State.respond_turns (s : State) (w : Word) :
    (s.respond w).turns = s.turns := rfl

/-! ## `State.raise` -/

@[simp] theorem State.raise_phase (s : State) (c : FaultCode) :
    (s.raise c).phase = .fault := rfl
@[simp] theorem State.raise_p (s : State) (c : FaultCode) :
    (s.raise c).p = s.p := rfl
@[simp] theorem State.raise_r (s : State) (c : FaultCode) :
    (s.raise c).r = s.r := rfl
@[simp] theorem State.raise_eoi (s : State) (c : FaultCode) :
    (s.raise c).eoi = s.eoi := rfl
@[simp] theorem State.raise_store (s : State) (c : FaultCode) :
    (s.raise c).store = s.store := rfl
@[simp] theorem State.raise_pindex (s : State) (c : FaultCode) :
    (s.raise c).pindex = s.pindex := rfl
@[simp] theorem State.raise_sym (s : State) (c : FaultCode) :
    (s.raise c).sym = s.sym := rfl
@[simp] theorem State.raise_symcount (s : State) (c : FaultCode) :
    (s.raise c).symcount = s.symcount := rfl
@[simp] theorem State.raise_freqLL (s : State) (c : FaultCode) :
    (s.raise c).freqLL = s.freqLL := rfl
@[simp] theorem State.raise_freqD (s : State) (c : FaultCode) :
    (s.raise c).freqD = s.freqD := rfl
@[simp] theorem State.raise_work (s : State) (c : FaultCode) :
    (s.raise c).work = s.work := rfl
@[simp] theorem State.raise_bitq (s : State) (c : FaultCode) :
    (s.raise c).bitq = [] := rfl
@[simp] theorem State.raise_oq (s : State) (c : FaultCode) :
    (s.raise c).oq = [] := rfl
@[simp] theorem State.raise_isize (s : State) (c : FaultCode) :
    (s.raise c).isize = s.isize := rfl
@[simp] theorem State.raise_crc (s : State) (c : FaultCode) :
    (s.raise c).crc = s.crc := rfl
@[simp] theorem State.raise_blocks (s : State) (c : FaultCode) :
    (s.raise c).blocks = s.blocks := rfl
@[simp] theorem State.raise_faultcode (s : State) (c : FaultCode) :
    (s.raise c).faultcode = c.code := rfl
@[simp] theorem State.raise_resp (s : State) (c : FaultCode) :
    (s.raise c).resp = s.resp := rfl
@[simp] theorem State.raise_kind (s : State) (c : FaultCode) :
    (s.raise c).kind = s.kind := rfl
@[simp] theorem State.raise_freeCtr (s : State) (c : FaultCode) :
    (s.raise c).freeCtr = s.freeCtr := rfl
@[simp] theorem State.raise_turns (s : State) (c : FaultCode) :
    (s.raise c).turns = s.turns := rfl

/-! ## `State.raiseHost` -/

@[simp] theorem State.raiseHost_phase (s : State) (c : FaultCode) :
    (s.raiseHost c).phase = .fault := rfl
@[simp] theorem State.raiseHost_p (s : State) (c : FaultCode) :
    (s.raiseHost c).p = s.p := rfl
@[simp] theorem State.raiseHost_r (s : State) (c : FaultCode) :
    (s.raiseHost c).r = s.r := rfl
@[simp] theorem State.raiseHost_eoi (s : State) (c : FaultCode) :
    (s.raiseHost c).eoi = s.eoi := rfl
@[simp] theorem State.raiseHost_store (s : State) (c : FaultCode) :
    (s.raiseHost c).store = s.store := rfl
@[simp] theorem State.raiseHost_pindex (s : State) (c : FaultCode) :
    (s.raiseHost c).pindex = s.pindex := rfl
@[simp] theorem State.raiseHost_sym (s : State) (c : FaultCode) :
    (s.raiseHost c).sym = s.sym := rfl
@[simp] theorem State.raiseHost_symcount (s : State) (c : FaultCode) :
    (s.raiseHost c).symcount = s.symcount := rfl
@[simp] theorem State.raiseHost_freqLL (s : State) (c : FaultCode) :
    (s.raiseHost c).freqLL = s.freqLL := rfl
@[simp] theorem State.raiseHost_freqD (s : State) (c : FaultCode) :
    (s.raiseHost c).freqD = s.freqD := rfl
@[simp] theorem State.raiseHost_work (s : State) (c : FaultCode) :
    (s.raiseHost c).work = s.work := rfl
@[simp] theorem State.raiseHost_bitq (s : State) (c : FaultCode) :
    (s.raiseHost c).bitq = [] := rfl
@[simp] theorem State.raiseHost_oq (s : State) (c : FaultCode) :
    (s.raiseHost c).oq = [] := rfl
@[simp] theorem State.raiseHost_isize (s : State) (c : FaultCode) :
    (s.raiseHost c).isize = s.isize := rfl
@[simp] theorem State.raiseHost_crc (s : State) (c : FaultCode) :
    (s.raiseHost c).crc = s.crc := rfl
@[simp] theorem State.raiseHost_blocks (s : State) (c : FaultCode) :
    (s.raiseHost c).blocks = s.blocks := rfl
@[simp] theorem State.raiseHost_faultcode (s : State) (c : FaultCode) :
    (s.raiseHost c).faultcode = c.code := rfl
@[simp] theorem State.raiseHost_resp (s : State) (c : FaultCode) :
    (s.raiseHost c).resp = 0 := rfl
@[simp] theorem State.raiseHost_kind (s : State) (c : FaultCode) :
    (s.raiseHost c).kind = s.kind := rfl
@[simp] theorem State.raiseHost_freeCtr (s : State) (c : FaultCode) :
    (s.raiseHost c).freeCtr = s.freeCtr := rfl
@[simp] theorem State.raiseHost_turns (s : State) (c : FaultCode) :
    (s.raiseHost c).turns = s.turns := rfl

/-! ## `State.doReset` -/

@[simp] theorem State.doReset_phase (s : State) :
    (s.doReset).phase = State.reset.phase := rfl
@[simp] theorem State.doReset_p (s : State) :
    (s.doReset).p = State.reset.p := rfl
@[simp] theorem State.doReset_r (s : State) :
    (s.doReset).r = State.reset.r := rfl
@[simp] theorem State.doReset_eoi (s : State) :
    (s.doReset).eoi = State.reset.eoi := rfl
@[simp] theorem State.doReset_store (s : State) :
    (s.doReset).store = State.reset.store := rfl
@[simp] theorem State.doReset_pindex (s : State) :
    (s.doReset).pindex = State.reset.pindex := rfl
@[simp] theorem State.doReset_sym (s : State) :
    (s.doReset).sym = State.reset.sym := rfl
@[simp] theorem State.doReset_symcount (s : State) :
    (s.doReset).symcount = State.reset.symcount := rfl
@[simp] theorem State.doReset_freqLL (s : State) :
    (s.doReset).freqLL = State.reset.freqLL := rfl
@[simp] theorem State.doReset_freqD (s : State) :
    (s.doReset).freqD = State.reset.freqD := rfl
@[simp] theorem State.doReset_work (s : State) :
    (s.doReset).work = State.reset.work := rfl
@[simp] theorem State.doReset_bitq (s : State) :
    (s.doReset).bitq = State.reset.bitq := rfl
@[simp] theorem State.doReset_oq (s : State) :
    (s.doReset).oq = State.reset.oq := rfl
@[simp] theorem State.doReset_isize (s : State) :
    (s.doReset).isize = State.reset.isize := rfl
@[simp] theorem State.doReset_crc (s : State) :
    (s.doReset).crc = State.reset.crc := rfl
@[simp] theorem State.doReset_blocks (s : State) :
    (s.doReset).blocks = State.reset.blocks := rfl
@[simp] theorem State.doReset_faultcode (s : State) :
    (s.doReset).faultcode = State.reset.faultcode := rfl
@[simp] theorem State.doReset_resp (s : State) :
    (s.doReset).resp = State.reset.resp := rfl
@[simp] theorem State.doReset_kind (s : State) :
    (s.doReset).kind = State.reset.kind := rfl
@[simp] theorem State.doReset_freeCtr (s : State) :
    (s.doReset).freeCtr = s.freeCtr := rfl
@[simp] theorem State.doReset_turns (s : State) :
    (s.doReset).turns = s.turns := rfl

/-! ## `State.freeWork` -/

@[simp] theorem State.freeWork_phase (s : State) :
    (s.freeWork).phase = s.phase := rfl
@[simp] theorem State.freeWork_p (s : State) :
    (s.freeWork).p = s.p := rfl
@[simp] theorem State.freeWork_r (s : State) :
    (s.freeWork).r = s.r := rfl
@[simp] theorem State.freeWork_eoi (s : State) :
    (s.freeWork).eoi = s.eoi := rfl
@[simp] theorem State.freeWork_store (s : State) :
    (s.freeWork).store = s.store := rfl
@[simp] theorem State.freeWork_pindex (s : State) :
    (s.freeWork).pindex = s.pindex := rfl
@[simp] theorem State.freeWork_sym (s : State) :
    (s.freeWork).sym = s.sym := rfl
@[simp] theorem State.freeWork_symcount (s : State) :
    (s.freeWork).symcount = s.symcount := rfl
@[simp] theorem State.freeWork_freqLL (s : State) :
    (s.freeWork).freqLL = s.freqLL := rfl
@[simp] theorem State.freeWork_freqD (s : State) :
    (s.freeWork).freqD = s.freqD := rfl
@[simp] theorem State.freeWork_work (s : State) :
    (s.freeWork).work = Config.freeWork s.freeCtr := rfl
@[simp] theorem State.freeWork_bitq (s : State) :
    (s.freeWork).bitq = s.bitq := rfl
@[simp] theorem State.freeWork_oq (s : State) :
    (s.freeWork).oq = s.oq := rfl
@[simp] theorem State.freeWork_isize (s : State) :
    (s.freeWork).isize = s.isize := rfl
@[simp] theorem State.freeWork_crc (s : State) :
    (s.freeWork).crc = s.crc := rfl
@[simp] theorem State.freeWork_blocks (s : State) :
    (s.freeWork).blocks = s.blocks := rfl
@[simp] theorem State.freeWork_faultcode (s : State) :
    (s.freeWork).faultcode = s.faultcode := rfl
@[simp] theorem State.freeWork_resp (s : State) :
    (s.freeWork).resp = s.resp := rfl
@[simp] theorem State.freeWork_kind (s : State) :
    (s.freeWork).kind = s.kind := rfl
@[simp] theorem State.freeWork_freeCtr (s : State) :
    (s.freeWork).freeCtr = s.freeCtr + 1 := rfl
@[simp] theorem State.freeWork_turns (s : State) :
    (s.freeWork).turns = s.turns := rfl

/-! ## `State.recordLL` -/

@[simp] theorem State.recordLL_phase (s : State) (sym : Nat) :
    (s.recordLL sym).phase = s.phase := rfl
@[simp] theorem State.recordLL_p (s : State) (sym : Nat) :
    (s.recordLL sym).p = s.p := rfl
@[simp] theorem State.recordLL_r (s : State) (sym : Nat) :
    (s.recordLL sym).r = s.r := rfl
@[simp] theorem State.recordLL_eoi (s : State) (sym : Nat) :
    (s.recordLL sym).eoi = s.eoi := rfl
@[simp] theorem State.recordLL_store (s : State) (sym : Nat) :
    (s.recordLL sym).store = s.store := rfl
@[simp] theorem State.recordLL_pindex (s : State) (sym : Nat) :
    (s.recordLL sym).pindex = s.pindex := rfl
@[simp] theorem State.recordLL_sym (s : State) (sym : Nat) :
    (s.recordLL sym).sym = s.sym := rfl
@[simp] theorem State.recordLL_symcount (s : State) (sym : Nat) :
    (s.recordLL sym).symcount = s.symcount := rfl
@[simp] theorem State.recordLL_freqLL (s : State) (sym : Nat) :
    (s.recordLL sym).freqLL = bump s.freqLL sym := rfl
@[simp] theorem State.recordLL_freqD (s : State) (sym : Nat) :
    (s.recordLL sym).freqD = s.freqD := rfl
@[simp] theorem State.recordLL_work (s : State) (sym : Nat) :
    (s.recordLL sym).work = s.work := rfl
@[simp] theorem State.recordLL_bitq (s : State) (sym : Nat) :
    (s.recordLL sym).bitq = s.bitq := rfl
@[simp] theorem State.recordLL_oq (s : State) (sym : Nat) :
    (s.recordLL sym).oq = s.oq := rfl
@[simp] theorem State.recordLL_isize (s : State) (sym : Nat) :
    (s.recordLL sym).isize = s.isize := rfl
@[simp] theorem State.recordLL_crc (s : State) (sym : Nat) :
    (s.recordLL sym).crc = s.crc := rfl
@[simp] theorem State.recordLL_blocks (s : State) (sym : Nat) :
    (s.recordLL sym).blocks = s.blocks := rfl
@[simp] theorem State.recordLL_faultcode (s : State) (sym : Nat) :
    (s.recordLL sym).faultcode = s.faultcode := rfl
@[simp] theorem State.recordLL_resp (s : State) (sym : Nat) :
    (s.recordLL sym).resp = s.resp := rfl
@[simp] theorem State.recordLL_kind (s : State) (sym : Nat) :
    (s.recordLL sym).kind = s.kind := rfl
@[simp] theorem State.recordLL_freeCtr (s : State) (sym : Nat) :
    (s.recordLL sym).freeCtr = s.freeCtr := rfl
@[simp] theorem State.recordLL_turns (s : State) (sym : Nat) :
    (s.recordLL sym).turns = s.turns := rfl

/-! ## `State.recordD` -/

@[simp] theorem State.recordD_phase (s : State) (sym : Nat) :
    (s.recordD sym).phase = s.phase := rfl
@[simp] theorem State.recordD_p (s : State) (sym : Nat) :
    (s.recordD sym).p = s.p := rfl
@[simp] theorem State.recordD_r (s : State) (sym : Nat) :
    (s.recordD sym).r = s.r := rfl
@[simp] theorem State.recordD_eoi (s : State) (sym : Nat) :
    (s.recordD sym).eoi = s.eoi := rfl
@[simp] theorem State.recordD_store (s : State) (sym : Nat) :
    (s.recordD sym).store = s.store := rfl
@[simp] theorem State.recordD_pindex (s : State) (sym : Nat) :
    (s.recordD sym).pindex = s.pindex := rfl
@[simp] theorem State.recordD_sym (s : State) (sym : Nat) :
    (s.recordD sym).sym = s.sym := rfl
@[simp] theorem State.recordD_symcount (s : State) (sym : Nat) :
    (s.recordD sym).symcount = s.symcount := rfl
@[simp] theorem State.recordD_freqLL (s : State) (sym : Nat) :
    (s.recordD sym).freqLL = s.freqLL := rfl
@[simp] theorem State.recordD_freqD (s : State) (sym : Nat) :
    (s.recordD sym).freqD = bump s.freqD sym := rfl
@[simp] theorem State.recordD_work (s : State) (sym : Nat) :
    (s.recordD sym).work = s.work := rfl
@[simp] theorem State.recordD_bitq (s : State) (sym : Nat) :
    (s.recordD sym).bitq = s.bitq := rfl
@[simp] theorem State.recordD_oq (s : State) (sym : Nat) :
    (s.recordD sym).oq = s.oq := rfl
@[simp] theorem State.recordD_isize (s : State) (sym : Nat) :
    (s.recordD sym).isize = s.isize := rfl
@[simp] theorem State.recordD_crc (s : State) (sym : Nat) :
    (s.recordD sym).crc = s.crc := rfl
@[simp] theorem State.recordD_blocks (s : State) (sym : Nat) :
    (s.recordD sym).blocks = s.blocks := rfl
@[simp] theorem State.recordD_faultcode (s : State) (sym : Nat) :
    (s.recordD sym).faultcode = s.faultcode := rfl
@[simp] theorem State.recordD_resp (s : State) (sym : Nat) :
    (s.recordD sym).resp = s.resp := rfl
@[simp] theorem State.recordD_kind (s : State) (sym : Nat) :
    (s.recordD sym).kind = s.kind := rfl
@[simp] theorem State.recordD_freeCtr (s : State) (sym : Nat) :
    (s.recordD sym).freeCtr = s.freeCtr := rfl
@[simp] theorem State.recordD_turns (s : State) (sym : Nat) :
    (s.recordD sym).turns = s.turns := rfl

/-! ## `State.resetFreq` -/

@[simp] theorem State.resetFreq_phase (s : State) :
    (s.resetFreq).phase = s.phase := rfl
@[simp] theorem State.resetFreq_p (s : State) :
    (s.resetFreq).p = s.p := rfl
@[simp] theorem State.resetFreq_r (s : State) :
    (s.resetFreq).r = s.r := rfl
@[simp] theorem State.resetFreq_eoi (s : State) :
    (s.resetFreq).eoi = s.eoi := rfl
@[simp] theorem State.resetFreq_store (s : State) :
    (s.resetFreq).store = s.store := rfl
@[simp] theorem State.resetFreq_pindex (s : State) :
    (s.resetFreq).pindex = s.pindex := rfl
@[simp] theorem State.resetFreq_sym (s : State) :
    (s.resetFreq).sym = s.sym := rfl
@[simp] theorem State.resetFreq_symcount (s : State) :
    (s.resetFreq).symcount = s.symcount := rfl
@[simp] theorem State.resetFreq_freqLL (s : State) :
    (s.resetFreq).freqLL = Vector.replicate 286 0 := rfl
@[simp] theorem State.resetFreq_freqD (s : State) :
    (s.resetFreq).freqD = Vector.replicate 30 0 := rfl
@[simp] theorem State.resetFreq_work (s : State) :
    (s.resetFreq).work = s.work := rfl
@[simp] theorem State.resetFreq_bitq (s : State) :
    (s.resetFreq).bitq = s.bitq := rfl
@[simp] theorem State.resetFreq_oq (s : State) :
    (s.resetFreq).oq = s.oq := rfl
@[simp] theorem State.resetFreq_isize (s : State) :
    (s.resetFreq).isize = s.isize := rfl
@[simp] theorem State.resetFreq_crc (s : State) :
    (s.resetFreq).crc = s.crc := rfl
@[simp] theorem State.resetFreq_blocks (s : State) :
    (s.resetFreq).blocks = s.blocks := rfl
@[simp] theorem State.resetFreq_faultcode (s : State) :
    (s.resetFreq).faultcode = s.faultcode := rfl
@[simp] theorem State.resetFreq_resp (s : State) :
    (s.resetFreq).resp = s.resp := rfl
@[simp] theorem State.resetFreq_kind (s : State) :
    (s.resetFreq).kind = s.kind := rfl
@[simp] theorem State.resetFreq_freeCtr (s : State) :
    (s.resetFreq).freeCtr = s.freeCtr := rfl
@[simp] theorem State.resetFreq_turns (s : State) :
    (s.resetFreq).turns = s.turns := rfl

/-! ## `State.appendSym` -/

@[simp] theorem State.appendSym_phase (s : State) (e : Sym) :
    (s.appendSym e).phase = s.phase := rfl
@[simp] theorem State.appendSym_p (s : State) (e : Sym) :
    (s.appendSym e).p = s.p := rfl
@[simp] theorem State.appendSym_r (s : State) (e : Sym) :
    (s.appendSym e).r = s.r := rfl
@[simp] theorem State.appendSym_eoi (s : State) (e : Sym) :
    (s.appendSym e).eoi = s.eoi := rfl
@[simp] theorem State.appendSym_store (s : State) (e : Sym) :
    (s.appendSym e).store = s.store := rfl
@[simp] theorem State.appendSym_pindex (s : State) (e : Sym) :
    (s.appendSym e).pindex = s.pindex := rfl
@[simp] theorem State.appendSym_sym (s : State) (e : Sym) :
    (s.appendSym e).sym = s.sym ++ [e] := rfl
@[simp] theorem State.appendSym_symcount (s : State) (e : Sym) :
    (s.appendSym e).symcount = s.symcount + 1 := rfl
@[simp] theorem State.appendSym_freqLL (s : State) (e : Sym) :
    (s.appendSym e).freqLL = s.freqLL := rfl
@[simp] theorem State.appendSym_freqD (s : State) (e : Sym) :
    (s.appendSym e).freqD = s.freqD := rfl
@[simp] theorem State.appendSym_work (s : State) (e : Sym) :
    (s.appendSym e).work = s.work := rfl
@[simp] theorem State.appendSym_bitq (s : State) (e : Sym) :
    (s.appendSym e).bitq = s.bitq := rfl
@[simp] theorem State.appendSym_oq (s : State) (e : Sym) :
    (s.appendSym e).oq = s.oq := rfl
@[simp] theorem State.appendSym_isize (s : State) (e : Sym) :
    (s.appendSym e).isize = s.isize := rfl
@[simp] theorem State.appendSym_crc (s : State) (e : Sym) :
    (s.appendSym e).crc = s.crc := rfl
@[simp] theorem State.appendSym_blocks (s : State) (e : Sym) :
    (s.appendSym e).blocks = s.blocks := rfl
@[simp] theorem State.appendSym_faultcode (s : State) (e : Sym) :
    (s.appendSym e).faultcode = s.faultcode := rfl
@[simp] theorem State.appendSym_resp (s : State) (e : Sym) :
    (s.appendSym e).resp = s.resp := rfl
@[simp] theorem State.appendSym_kind (s : State) (e : Sym) :
    (s.appendSym e).kind = s.kind := rfl
@[simp] theorem State.appendSym_freeCtr (s : State) (e : Sym) :
    (s.appendSym e).freeCtr = s.freeCtr := rfl
@[simp] theorem State.appendSym_turns (s : State) (e : Sym) :
    (s.appendSym e).turns = s.turns := rfl

/-! ## `State.appendBits` -/

@[simp] theorem State.appendBits_phase (s : State) (l : List Bool) :
    (s.appendBits l).phase = s.phase := rfl
@[simp] theorem State.appendBits_p (s : State) (l : List Bool) :
    (s.appendBits l).p = s.p := rfl
@[simp] theorem State.appendBits_r (s : State) (l : List Bool) :
    (s.appendBits l).r = s.r := rfl
@[simp] theorem State.appendBits_eoi (s : State) (l : List Bool) :
    (s.appendBits l).eoi = s.eoi := rfl
@[simp] theorem State.appendBits_store (s : State) (l : List Bool) :
    (s.appendBits l).store = s.store := rfl
@[simp] theorem State.appendBits_pindex (s : State) (l : List Bool) :
    (s.appendBits l).pindex = s.pindex := rfl
@[simp] theorem State.appendBits_sym (s : State) (l : List Bool) :
    (s.appendBits l).sym = s.sym := rfl
@[simp] theorem State.appendBits_symcount (s : State) (l : List Bool) :
    (s.appendBits l).symcount = s.symcount := rfl
@[simp] theorem State.appendBits_freqLL (s : State) (l : List Bool) :
    (s.appendBits l).freqLL = s.freqLL := rfl
@[simp] theorem State.appendBits_freqD (s : State) (l : List Bool) :
    (s.appendBits l).freqD = s.freqD := rfl
@[simp] theorem State.appendBits_work (s : State) (l : List Bool) :
    (s.appendBits l).work = s.work := rfl
@[simp] theorem State.appendBits_bitq (s : State) (l : List Bool) :
    (s.appendBits l).bitq = s.bitq ++ l := rfl
@[simp] theorem State.appendBits_oq (s : State) (l : List Bool) :
    (s.appendBits l).oq = s.oq := rfl
@[simp] theorem State.appendBits_isize (s : State) (l : List Bool) :
    (s.appendBits l).isize = s.isize := rfl
@[simp] theorem State.appendBits_crc (s : State) (l : List Bool) :
    (s.appendBits l).crc = s.crc := rfl
@[simp] theorem State.appendBits_blocks (s : State) (l : List Bool) :
    (s.appendBits l).blocks = s.blocks := rfl
@[simp] theorem State.appendBits_faultcode (s : State) (l : List Bool) :
    (s.appendBits l).faultcode = s.faultcode := rfl
@[simp] theorem State.appendBits_resp (s : State) (l : List Bool) :
    (s.appendBits l).resp = s.resp := rfl
@[simp] theorem State.appendBits_kind (s : State) (l : List Bool) :
    (s.appendBits l).kind = s.kind := rfl
@[simp] theorem State.appendBits_freeCtr (s : State) (l : List Bool) :
    (s.appendBits l).freeCtr = s.freeCtr := rfl
@[simp] theorem State.appendBits_turns (s : State) (l : List Bool) :
    (s.appendBits l).turns = s.turns := rfl

/-! ## `State.putBits` -/

@[simp] theorem State.putBits_phase (s : State) (v n : Nat) :
    (s.putBits v n).phase = s.phase := rfl
@[simp] theorem State.putBits_p (s : State) (v n : Nat) :
    (s.putBits v n).p = s.p := rfl
@[simp] theorem State.putBits_r (s : State) (v n : Nat) :
    (s.putBits v n).r = s.r := rfl
@[simp] theorem State.putBits_eoi (s : State) (v n : Nat) :
    (s.putBits v n).eoi = s.eoi := rfl
@[simp] theorem State.putBits_store (s : State) (v n : Nat) :
    (s.putBits v n).store = s.store := rfl
@[simp] theorem State.putBits_pindex (s : State) (v n : Nat) :
    (s.putBits v n).pindex = s.pindex := rfl
@[simp] theorem State.putBits_sym (s : State) (v n : Nat) :
    (s.putBits v n).sym = s.sym := rfl
@[simp] theorem State.putBits_symcount (s : State) (v n : Nat) :
    (s.putBits v n).symcount = s.symcount := rfl
@[simp] theorem State.putBits_freqLL (s : State) (v n : Nat) :
    (s.putBits v n).freqLL = s.freqLL := rfl
@[simp] theorem State.putBits_freqD (s : State) (v n : Nat) :
    (s.putBits v n).freqD = s.freqD := rfl
@[simp] theorem State.putBits_work (s : State) (v n : Nat) :
    (s.putBits v n).work = s.work := rfl
@[simp] theorem State.putBits_bitq (s : State) (v n : Nat) :
    (s.putBits v n).bitq = s.bitq ++ fieldBits v n := rfl
@[simp] theorem State.putBits_oq (s : State) (v n : Nat) :
    (s.putBits v n).oq = s.oq := rfl
@[simp] theorem State.putBits_isize (s : State) (v n : Nat) :
    (s.putBits v n).isize = s.isize := rfl
@[simp] theorem State.putBits_crc (s : State) (v n : Nat) :
    (s.putBits v n).crc = s.crc := rfl
@[simp] theorem State.putBits_blocks (s : State) (v n : Nat) :
    (s.putBits v n).blocks = s.blocks := rfl
@[simp] theorem State.putBits_faultcode (s : State) (v n : Nat) :
    (s.putBits v n).faultcode = s.faultcode := rfl
@[simp] theorem State.putBits_resp (s : State) (v n : Nat) :
    (s.putBits v n).resp = s.resp := rfl
@[simp] theorem State.putBits_kind (s : State) (v n : Nat) :
    (s.putBits v n).kind = s.kind := rfl
@[simp] theorem State.putBits_freeCtr (s : State) (v n : Nat) :
    (s.putBits v n).freeCtr = s.freeCtr := rfl
@[simp] theorem State.putBits_turns (s : State) (v n : Nat) :
    (s.putBits v n).turns = s.turns := rfl

/-! ## `State.putCode` -/

@[simp] theorem State.putCode_phase (s : State) (c n : Nat) :
    (s.putCode c n).phase = s.phase := rfl
@[simp] theorem State.putCode_p (s : State) (c n : Nat) :
    (s.putCode c n).p = s.p := rfl
@[simp] theorem State.putCode_r (s : State) (c n : Nat) :
    (s.putCode c n).r = s.r := rfl
@[simp] theorem State.putCode_eoi (s : State) (c n : Nat) :
    (s.putCode c n).eoi = s.eoi := rfl
@[simp] theorem State.putCode_store (s : State) (c n : Nat) :
    (s.putCode c n).store = s.store := rfl
@[simp] theorem State.putCode_pindex (s : State) (c n : Nat) :
    (s.putCode c n).pindex = s.pindex := rfl
@[simp] theorem State.putCode_sym (s : State) (c n : Nat) :
    (s.putCode c n).sym = s.sym := rfl
@[simp] theorem State.putCode_symcount (s : State) (c n : Nat) :
    (s.putCode c n).symcount = s.symcount := rfl
@[simp] theorem State.putCode_freqLL (s : State) (c n : Nat) :
    (s.putCode c n).freqLL = s.freqLL := rfl
@[simp] theorem State.putCode_freqD (s : State) (c n : Nat) :
    (s.putCode c n).freqD = s.freqD := rfl
@[simp] theorem State.putCode_work (s : State) (c n : Nat) :
    (s.putCode c n).work = s.work := rfl
@[simp] theorem State.putCode_bitq (s : State) (c n : Nat) :
    (s.putCode c n).bitq = s.bitq ++ codeBits c n := rfl
@[simp] theorem State.putCode_oq (s : State) (c n : Nat) :
    (s.putCode c n).oq = s.oq := rfl
@[simp] theorem State.putCode_isize (s : State) (c n : Nat) :
    (s.putCode c n).isize = s.isize := rfl
@[simp] theorem State.putCode_crc (s : State) (c n : Nat) :
    (s.putCode c n).crc = s.crc := rfl
@[simp] theorem State.putCode_blocks (s : State) (c n : Nat) :
    (s.putCode c n).blocks = s.blocks := rfl
@[simp] theorem State.putCode_faultcode (s : State) (c n : Nat) :
    (s.putCode c n).faultcode = s.faultcode := rfl
@[simp] theorem State.putCode_resp (s : State) (c n : Nat) :
    (s.putCode c n).resp = s.resp := rfl
@[simp] theorem State.putCode_kind (s : State) (c n : Nat) :
    (s.putCode c n).kind = s.kind := rfl
@[simp] theorem State.putCode_freeCtr (s : State) (c n : Nat) :
    (s.putCode c n).freeCtr = s.freeCtr := rfl
@[simp] theorem State.putCode_turns (s : State) (c n : Nat) :
    (s.putCode c n).turns = s.turns := rfl

/-! ## `State.padToByte` -/

@[simp] theorem State.padToByte_phase (s : State) :
    (s.padToByte).phase = s.phase := rfl
@[simp] theorem State.padToByte_p (s : State) :
    (s.padToByte).p = s.p := rfl
@[simp] theorem State.padToByte_r (s : State) :
    (s.padToByte).r = s.r := rfl
@[simp] theorem State.padToByte_eoi (s : State) :
    (s.padToByte).eoi = s.eoi := rfl
@[simp] theorem State.padToByte_store (s : State) :
    (s.padToByte).store = s.store := rfl
@[simp] theorem State.padToByte_pindex (s : State) :
    (s.padToByte).pindex = s.pindex := rfl
@[simp] theorem State.padToByte_sym (s : State) :
    (s.padToByte).sym = s.sym := rfl
@[simp] theorem State.padToByte_symcount (s : State) :
    (s.padToByte).symcount = s.symcount := rfl
@[simp] theorem State.padToByte_freqLL (s : State) :
    (s.padToByte).freqLL = s.freqLL := rfl
@[simp] theorem State.padToByte_freqD (s : State) :
    (s.padToByte).freqD = s.freqD := rfl
@[simp] theorem State.padToByte_work (s : State) :
    (s.padToByte).work = s.work := rfl
@[simp] theorem State.padToByte_bitq (s : State) :
    (s.padToByte).bitq = s.bitq ++ List.replicate (padLength s.bitq.length) false := rfl
@[simp] theorem State.padToByte_oq (s : State) :
    (s.padToByte).oq = s.oq := rfl
@[simp] theorem State.padToByte_isize (s : State) :
    (s.padToByte).isize = s.isize := rfl
@[simp] theorem State.padToByte_crc (s : State) :
    (s.padToByte).crc = s.crc := rfl
@[simp] theorem State.padToByte_blocks (s : State) :
    (s.padToByte).blocks = s.blocks := rfl
@[simp] theorem State.padToByte_faultcode (s : State) :
    (s.padToByte).faultcode = s.faultcode := rfl
@[simp] theorem State.padToByte_resp (s : State) :
    (s.padToByte).resp = s.resp := rfl
@[simp] theorem State.padToByte_kind (s : State) :
    (s.padToByte).kind = s.kind := rfl
@[simp] theorem State.padToByte_freeCtr (s : State) :
    (s.padToByte).freeCtr = s.freeCtr := rfl
@[simp] theorem State.padToByte_turns (s : State) :
    (s.padToByte).turns = s.turns := rfl

/-! ## `State.acceptByte` -/

@[simp] theorem State.acceptByte_phase (s : State) (b : Byte) :
    (s.acceptByte b).phase = s.phase := rfl
@[simp] theorem State.acceptByte_p (s : State) (b : Byte) :
    (s.acceptByte b).p = s.p := rfl
@[simp] theorem State.acceptByte_r (s : State) (b : Byte) :
    (s.acceptByte b).r = s.r + 1 := rfl
@[simp] theorem State.acceptByte_eoi (s : State) (b : Byte) :
    (s.acceptByte b).eoi = s.eoi := rfl
@[simp] theorem State.acceptByte_store (s : State) (b : Byte) :
    (s.acceptByte b).store = s.store.write s.r b := rfl
@[simp] theorem State.acceptByte_pindex (s : State) (b : Byte) :
    (s.acceptByte b).pindex = s.pindex := rfl
@[simp] theorem State.acceptByte_sym (s : State) (b : Byte) :
    (s.acceptByte b).sym = s.sym := rfl
@[simp] theorem State.acceptByte_symcount (s : State) (b : Byte) :
    (s.acceptByte b).symcount = s.symcount := rfl
@[simp] theorem State.acceptByte_freqLL (s : State) (b : Byte) :
    (s.acceptByte b).freqLL = s.freqLL := rfl
@[simp] theorem State.acceptByte_freqD (s : State) (b : Byte) :
    (s.acceptByte b).freqD = s.freqD := rfl
@[simp] theorem State.acceptByte_work (s : State) (b : Byte) :
    (s.acceptByte b).work = s.work := rfl
@[simp] theorem State.acceptByte_bitq (s : State) (b : Byte) :
    (s.acceptByte b).bitq = s.bitq := rfl
@[simp] theorem State.acceptByte_oq (s : State) (b : Byte) :
    (s.acceptByte b).oq = s.oq := rfl
@[simp] theorem State.acceptByte_isize (s : State) (b : Byte) :
    (s.acceptByte b).isize = s.isize + 1 := rfl
@[simp] theorem State.acceptByte_crc (s : State) (b : Byte) :
    (s.acceptByte b).crc = Config.crcStep b s.crc := rfl
@[simp] theorem State.acceptByte_blocks (s : State) (b : Byte) :
    (s.acceptByte b).blocks = s.blocks := rfl
@[simp] theorem State.acceptByte_faultcode (s : State) (b : Byte) :
    (s.acceptByte b).faultcode = s.faultcode := rfl
@[simp] theorem State.acceptByte_resp (s : State) (b : Byte) :
    (s.acceptByte b).resp = 1 := rfl
@[simp] theorem State.acceptByte_kind (s : State) (b : Byte) :
    (s.acceptByte b).kind = s.kind := rfl
@[simp] theorem State.acceptByte_freeCtr (s : State) (b : Byte) :
    (s.acceptByte b).freeCtr = s.freeCtr := rfl
@[simp] theorem State.acceptByte_turns (s : State) (b : Byte) :
    (s.acceptByte b).turns = s.turns := rfl

/-! ## `State.putLL` -/

@[simp] theorem State.putLL_phase (s : State) (sym xv xb : Nat) :
    (s.putLL sym xv xb).phase = s.phase := rfl
@[simp] theorem State.putLL_p (s : State) (sym xv xb : Nat) :
    (s.putLL sym xv xb).p = s.p := rfl
@[simp] theorem State.putLL_r (s : State) (sym xv xb : Nat) :
    (s.putLL sym xv xb).r = s.r := rfl
@[simp] theorem State.putLL_eoi (s : State) (sym xv xb : Nat) :
    (s.putLL sym xv xb).eoi = s.eoi := rfl
@[simp] theorem State.putLL_store (s : State) (sym xv xb : Nat) :
    (s.putLL sym xv xb).store = s.store := rfl
@[simp] theorem State.putLL_pindex (s : State) (sym xv xb : Nat) :
    (s.putLL sym xv xb).pindex = s.pindex := rfl
@[simp] theorem State.putLL_sym (s : State) (sym xv xb : Nat) :
    (s.putLL sym xv xb).sym = s.sym := rfl
@[simp] theorem State.putLL_symcount (s : State) (sym xv xb : Nat) :
    (s.putLL sym xv xb).symcount = s.symcount := rfl
@[simp] theorem State.putLL_freqLL (s : State) (sym xv xb : Nat) :
    (s.putLL sym xv xb).freqLL = s.freqLL := rfl
@[simp] theorem State.putLL_freqD (s : State) (sym xv xb : Nat) :
    (s.putLL sym xv xb).freqD = s.freqD := rfl
@[simp] theorem State.putLL_work (s : State) (sym xv xb : Nat) :
    (s.putLL sym xv xb).work = s.work := rfl
@[simp] theorem State.putLL_bitq (s : State) (sym xv xb : Nat) :
    (s.putLL sym xv xb).bitq = s.bitq ++ llBits s.payloadTables sym xv xb := rfl
@[simp] theorem State.putLL_oq (s : State) (sym xv xb : Nat) :
    (s.putLL sym xv xb).oq = s.oq := rfl
@[simp] theorem State.putLL_isize (s : State) (sym xv xb : Nat) :
    (s.putLL sym xv xb).isize = s.isize := rfl
@[simp] theorem State.putLL_crc (s : State) (sym xv xb : Nat) :
    (s.putLL sym xv xb).crc = s.crc := rfl
@[simp] theorem State.putLL_blocks (s : State) (sym xv xb : Nat) :
    (s.putLL sym xv xb).blocks = s.blocks := rfl
@[simp] theorem State.putLL_faultcode (s : State) (sym xv xb : Nat) :
    (s.putLL sym xv xb).faultcode = s.faultcode := rfl
@[simp] theorem State.putLL_resp (s : State) (sym xv xb : Nat) :
    (s.putLL sym xv xb).resp = s.resp := rfl
@[simp] theorem State.putLL_kind (s : State) (sym xv xb : Nat) :
    (s.putLL sym xv xb).kind = s.kind := rfl
@[simp] theorem State.putLL_freeCtr (s : State) (sym xv xb : Nat) :
    (s.putLL sym xv xb).freeCtr = s.freeCtr := rfl
@[simp] theorem State.putLL_turns (s : State) (sym xv xb : Nat) :
    (s.putLL sym xv xb).turns = s.turns := rfl

/-! ## `State.putD` -/

@[simp] theorem State.putD_phase (s : State) (sym xv xb : Nat) :
    (s.putD sym xv xb).phase = s.phase := rfl
@[simp] theorem State.putD_p (s : State) (sym xv xb : Nat) :
    (s.putD sym xv xb).p = s.p := rfl
@[simp] theorem State.putD_r (s : State) (sym xv xb : Nat) :
    (s.putD sym xv xb).r = s.r := rfl
@[simp] theorem State.putD_eoi (s : State) (sym xv xb : Nat) :
    (s.putD sym xv xb).eoi = s.eoi := rfl
@[simp] theorem State.putD_store (s : State) (sym xv xb : Nat) :
    (s.putD sym xv xb).store = s.store := rfl
@[simp] theorem State.putD_pindex (s : State) (sym xv xb : Nat) :
    (s.putD sym xv xb).pindex = s.pindex := rfl
@[simp] theorem State.putD_sym (s : State) (sym xv xb : Nat) :
    (s.putD sym xv xb).sym = s.sym := rfl
@[simp] theorem State.putD_symcount (s : State) (sym xv xb : Nat) :
    (s.putD sym xv xb).symcount = s.symcount := rfl
@[simp] theorem State.putD_freqLL (s : State) (sym xv xb : Nat) :
    (s.putD sym xv xb).freqLL = s.freqLL := rfl
@[simp] theorem State.putD_freqD (s : State) (sym xv xb : Nat) :
    (s.putD sym xv xb).freqD = s.freqD := rfl
@[simp] theorem State.putD_work (s : State) (sym xv xb : Nat) :
    (s.putD sym xv xb).work = s.work := rfl
@[simp] theorem State.putD_bitq (s : State) (sym xv xb : Nat) :
    (s.putD sym xv xb).bitq = s.bitq ++ dBits s.payloadTables sym xv xb := rfl
@[simp] theorem State.putD_oq (s : State) (sym xv xb : Nat) :
    (s.putD sym xv xb).oq = s.oq := rfl
@[simp] theorem State.putD_isize (s : State) (sym xv xb : Nat) :
    (s.putD sym xv xb).isize = s.isize := rfl
@[simp] theorem State.putD_crc (s : State) (sym xv xb : Nat) :
    (s.putD sym xv xb).crc = s.crc := rfl
@[simp] theorem State.putD_blocks (s : State) (sym xv xb : Nat) :
    (s.putD sym xv xb).blocks = s.blocks := rfl
@[simp] theorem State.putD_faultcode (s : State) (sym xv xb : Nat) :
    (s.putD sym xv xb).faultcode = s.faultcode := rfl
@[simp] theorem State.putD_resp (s : State) (sym xv xb : Nat) :
    (s.putD sym xv xb).resp = s.resp := rfl
@[simp] theorem State.putD_kind (s : State) (sym xv xb : Nat) :
    (s.putD sym xv xb).kind = s.kind := rfl
@[simp] theorem State.putD_freeCtr (s : State) (sym xv xb : Nat) :
    (s.putD sym xv xb).freeCtr = s.freeCtr := rfl
@[simp] theorem State.putD_turns (s : State) (sym xv xb : Nat) :
    (s.putD sym xv xb).turns = s.turns := rfl

/-! ## `State.putCL` -/

@[simp] theorem State.putCL_phase (s : State) (sym xv xb : Nat) :
    (s.putCL sym xv xb).phase = s.phase := rfl
@[simp] theorem State.putCL_p (s : State) (sym xv xb : Nat) :
    (s.putCL sym xv xb).p = s.p := rfl
@[simp] theorem State.putCL_r (s : State) (sym xv xb : Nat) :
    (s.putCL sym xv xb).r = s.r := rfl
@[simp] theorem State.putCL_eoi (s : State) (sym xv xb : Nat) :
    (s.putCL sym xv xb).eoi = s.eoi := rfl
@[simp] theorem State.putCL_store (s : State) (sym xv xb : Nat) :
    (s.putCL sym xv xb).store = s.store := rfl
@[simp] theorem State.putCL_pindex (s : State) (sym xv xb : Nat) :
    (s.putCL sym xv xb).pindex = s.pindex := rfl
@[simp] theorem State.putCL_sym (s : State) (sym xv xb : Nat) :
    (s.putCL sym xv xb).sym = s.sym := rfl
@[simp] theorem State.putCL_symcount (s : State) (sym xv xb : Nat) :
    (s.putCL sym xv xb).symcount = s.symcount := rfl
@[simp] theorem State.putCL_freqLL (s : State) (sym xv xb : Nat) :
    (s.putCL sym xv xb).freqLL = s.freqLL := rfl
@[simp] theorem State.putCL_freqD (s : State) (sym xv xb : Nat) :
    (s.putCL sym xv xb).freqD = s.freqD := rfl
@[simp] theorem State.putCL_work (s : State) (sym xv xb : Nat) :
    (s.putCL sym xv xb).work = s.work := rfl
@[simp] theorem State.putCL_bitq (s : State) (sym xv xb : Nat) :
    (s.putCL sym xv xb).bitq = s.bitq ++ clBits s.work sym xv xb := rfl
@[simp] theorem State.putCL_oq (s : State) (sym xv xb : Nat) :
    (s.putCL sym xv xb).oq = s.oq := rfl
@[simp] theorem State.putCL_isize (s : State) (sym xv xb : Nat) :
    (s.putCL sym xv xb).isize = s.isize := rfl
@[simp] theorem State.putCL_crc (s : State) (sym xv xb : Nat) :
    (s.putCL sym xv xb).crc = s.crc := rfl
@[simp] theorem State.putCL_blocks (s : State) (sym xv xb : Nat) :
    (s.putCL sym xv xb).blocks = s.blocks := rfl
@[simp] theorem State.putCL_faultcode (s : State) (sym xv xb : Nat) :
    (s.putCL sym xv xb).faultcode = s.faultcode := rfl
@[simp] theorem State.putCL_resp (s : State) (sym xv xb : Nat) :
    (s.putCL sym xv xb).resp = s.resp := rfl
@[simp] theorem State.putCL_kind (s : State) (sym xv xb : Nat) :
    (s.putCL sym xv xb).kind = s.kind := rfl
@[simp] theorem State.putCL_freeCtr (s : State) (sym xv xb : Nat) :
    (s.putCL sym xv xb).freeCtr = s.freeCtr := rfl
@[simp] theorem State.putCL_turns (s : State) (sym xv xb : Nat) :
    (s.putCL sym xv xb).turns = s.turns := rfl

/-! ## `State.writePayload` -/

@[simp] theorem State.writePayload_phase (s : State) (t : CodeTables) :
    (s.writePayload t).phase = s.phase := rfl
@[simp] theorem State.writePayload_p (s : State) (t : CodeTables) :
    (s.writePayload t).p = s.p := rfl
@[simp] theorem State.writePayload_r (s : State) (t : CodeTables) :
    (s.writePayload t).r = s.r := rfl
@[simp] theorem State.writePayload_eoi (s : State) (t : CodeTables) :
    (s.writePayload t).eoi = s.eoi := rfl
@[simp] theorem State.writePayload_store (s : State) (t : CodeTables) :
    (s.writePayload t).store = s.store := rfl
@[simp] theorem State.writePayload_pindex (s : State) (t : CodeTables) :
    (s.writePayload t).pindex = s.pindex := rfl
@[simp] theorem State.writePayload_sym (s : State) (t : CodeTables) :
    (s.writePayload t).sym = s.sym := rfl
@[simp] theorem State.writePayload_symcount (s : State) (t : CodeTables) :
    (s.writePayload t).symcount = s.symcount := rfl
@[simp] theorem State.writePayload_freqLL (s : State) (t : CodeTables) :
    (s.writePayload t).freqLL = s.freqLL := rfl
@[simp] theorem State.writePayload_freqD (s : State) (t : CodeTables) :
    (s.writePayload t).freqD = s.freqD := rfl
@[simp] theorem State.writePayload_work (s : State) (t : CodeTables) :
    (s.writePayload t).work = s.work := rfl
@[simp] theorem State.writePayload_bitq (s : State) (t : CodeTables) :
    (s.writePayload t).bitq = s.bitq ++ payloadBits t s.sym := rfl
@[simp] theorem State.writePayload_oq (s : State) (t : CodeTables) :
    (s.writePayload t).oq = s.oq := rfl
@[simp] theorem State.writePayload_isize (s : State) (t : CodeTables) :
    (s.writePayload t).isize = s.isize := rfl
@[simp] theorem State.writePayload_crc (s : State) (t : CodeTables) :
    (s.writePayload t).crc = s.crc := rfl
@[simp] theorem State.writePayload_blocks (s : State) (t : CodeTables) :
    (s.writePayload t).blocks = s.blocks := rfl
@[simp] theorem State.writePayload_faultcode (s : State) (t : CodeTables) :
    (s.writePayload t).faultcode = s.faultcode := rfl
@[simp] theorem State.writePayload_resp (s : State) (t : CodeTables) :
    (s.writePayload t).resp = s.resp := rfl
@[simp] theorem State.writePayload_kind (s : State) (t : CodeTables) :
    (s.writePayload t).kind = s.kind := rfl
@[simp] theorem State.writePayload_freeCtr (s : State) (t : CodeTables) :
    (s.writePayload t).freeCtr = s.freeCtr := rfl
@[simp] theorem State.writePayload_turns (s : State) (t : CodeTables) :
    (s.writePayload t).turns = s.turns := rfl

/-! ## `State.writeFixedBlock` -/

@[simp] theorem State.writeFixedBlock_phase (s : State) (f : BitVec 1) :
    (s.writeFixedBlock f).phase = s.phase := rfl
@[simp] theorem State.writeFixedBlock_p (s : State) (f : BitVec 1) :
    (s.writeFixedBlock f).p = s.p := rfl
@[simp] theorem State.writeFixedBlock_r (s : State) (f : BitVec 1) :
    (s.writeFixedBlock f).r = s.r := rfl
@[simp] theorem State.writeFixedBlock_eoi (s : State) (f : BitVec 1) :
    (s.writeFixedBlock f).eoi = s.eoi := rfl
@[simp] theorem State.writeFixedBlock_store (s : State) (f : BitVec 1) :
    (s.writeFixedBlock f).store = s.store := rfl
@[simp] theorem State.writeFixedBlock_pindex (s : State) (f : BitVec 1) :
    (s.writeFixedBlock f).pindex = s.pindex := rfl
@[simp] theorem State.writeFixedBlock_sym (s : State) (f : BitVec 1) :
    (s.writeFixedBlock f).sym = s.sym := rfl
@[simp] theorem State.writeFixedBlock_symcount (s : State) (f : BitVec 1) :
    (s.writeFixedBlock f).symcount = s.symcount := rfl
@[simp] theorem State.writeFixedBlock_freqLL (s : State) (f : BitVec 1) :
    (s.writeFixedBlock f).freqLL = s.freqLL := rfl
@[simp] theorem State.writeFixedBlock_freqD (s : State) (f : BitVec 1) :
    (s.writeFixedBlock f).freqD = s.freqD := rfl
@[simp] theorem State.writeFixedBlock_work (s : State) (f : BitVec 1) :
    (s.writeFixedBlock f).work = s.work := rfl
@[simp] theorem State.writeFixedBlock_bitq (s : State) (f : BitVec 1) :
    (s.writeFixedBlock f).bitq = s.bitq ++ headerBits f.toNat 1 ++ payloadBits fixedTables s.sym := rfl
@[simp] theorem State.writeFixedBlock_oq (s : State) (f : BitVec 1) :
    (s.writeFixedBlock f).oq = s.oq := rfl
@[simp] theorem State.writeFixedBlock_isize (s : State) (f : BitVec 1) :
    (s.writeFixedBlock f).isize = s.isize := rfl
@[simp] theorem State.writeFixedBlock_crc (s : State) (f : BitVec 1) :
    (s.writeFixedBlock f).crc = s.crc := rfl
@[simp] theorem State.writeFixedBlock_blocks (s : State) (f : BitVec 1) :
    (s.writeFixedBlock f).blocks = s.blocks := rfl
@[simp] theorem State.writeFixedBlock_faultcode (s : State) (f : BitVec 1) :
    (s.writeFixedBlock f).faultcode = s.faultcode := rfl
@[simp] theorem State.writeFixedBlock_resp (s : State) (f : BitVec 1) :
    (s.writeFixedBlock f).resp = s.resp := rfl
@[simp] theorem State.writeFixedBlock_kind (s : State) (f : BitVec 1) :
    (s.writeFixedBlock f).kind = .fixed := rfl
@[simp] theorem State.writeFixedBlock_freeCtr (s : State) (f : BitVec 1) :
    (s.writeFixedBlock f).freeCtr = s.freeCtr := rfl
@[simp] theorem State.writeFixedBlock_turns (s : State) (f : BitVec 1) :
    (s.writeFixedBlock f).turns = s.turns := rfl

/-! ## `State.writeDynamicWith` -/

@[simp] theorem State.writeDynamicWith_phase (s : State) (f : BitVec 1) (w : Work) :
    (s.writeDynamicWith f w).phase = s.phase := rfl
@[simp] theorem State.writeDynamicWith_p (s : State) (f : BitVec 1) (w : Work) :
    (s.writeDynamicWith f w).p = s.p := rfl
@[simp] theorem State.writeDynamicWith_r (s : State) (f : BitVec 1) (w : Work) :
    (s.writeDynamicWith f w).r = s.r := rfl
@[simp] theorem State.writeDynamicWith_eoi (s : State) (f : BitVec 1) (w : Work) :
    (s.writeDynamicWith f w).eoi = s.eoi := rfl
@[simp] theorem State.writeDynamicWith_store (s : State) (f : BitVec 1) (w : Work) :
    (s.writeDynamicWith f w).store = s.store := rfl
@[simp] theorem State.writeDynamicWith_pindex (s : State) (f : BitVec 1) (w : Work) :
    (s.writeDynamicWith f w).pindex = s.pindex := rfl
@[simp] theorem State.writeDynamicWith_sym (s : State) (f : BitVec 1) (w : Work) :
    (s.writeDynamicWith f w).sym = s.sym := rfl
@[simp] theorem State.writeDynamicWith_symcount (s : State) (f : BitVec 1) (w : Work) :
    (s.writeDynamicWith f w).symcount = s.symcount := rfl
@[simp] theorem State.writeDynamicWith_freqLL (s : State) (f : BitVec 1) (w : Work) :
    (s.writeDynamicWith f w).freqLL = s.freqLL := rfl
@[simp] theorem State.writeDynamicWith_freqD (s : State) (f : BitVec 1) (w : Work) :
    (s.writeDynamicWith f w).freqD = s.freqD := rfl
@[simp] theorem State.writeDynamicWith_work (s : State) (f : BitVec 1) (w : Work) :
    (s.writeDynamicWith f w).work = w := rfl
@[simp] theorem State.writeDynamicWith_bitq (s : State) (f : BitVec 1) (w : Work) :
    (s.writeDynamicWith f w).bitq = s.bitq ++ (headerBits f.toNat 2 ++ tableBits w) ++ payloadBits w.tables s.sym := rfl
@[simp] theorem State.writeDynamicWith_oq (s : State) (f : BitVec 1) (w : Work) :
    (s.writeDynamicWith f w).oq = s.oq := rfl
@[simp] theorem State.writeDynamicWith_isize (s : State) (f : BitVec 1) (w : Work) :
    (s.writeDynamicWith f w).isize = s.isize := rfl
@[simp] theorem State.writeDynamicWith_crc (s : State) (f : BitVec 1) (w : Work) :
    (s.writeDynamicWith f w).crc = s.crc := rfl
@[simp] theorem State.writeDynamicWith_blocks (s : State) (f : BitVec 1) (w : Work) :
    (s.writeDynamicWith f w).blocks = s.blocks := rfl
@[simp] theorem State.writeDynamicWith_faultcode (s : State) (f : BitVec 1) (w : Work) :
    (s.writeDynamicWith f w).faultcode = s.faultcode := rfl
@[simp] theorem State.writeDynamicWith_resp (s : State) (f : BitVec 1) (w : Work) :
    (s.writeDynamicWith f w).resp = s.resp := rfl
@[simp] theorem State.writeDynamicWith_kind (s : State) (f : BitVec 1) (w : Work) :
    (s.writeDynamicWith f w).kind = .dynamic := rfl
@[simp] theorem State.writeDynamicWith_freeCtr (s : State) (f : BitVec 1) (w : Work) :
    (s.writeDynamicWith f w).freeCtr = s.freeCtr := rfl
@[simp] theorem State.writeDynamicWith_turns (s : State) (f : BitVec 1) (w : Work) :
    (s.writeDynamicWith f w).turns = s.turns := rfl

/-! ## `State.afterBlock` -/

@[simp] theorem State.afterBlock_phase (s : State) :
    (s.afterBlock).phase = s.phase := rfl
@[simp] theorem State.afterBlock_p (s : State) :
    (s.afterBlock).p = s.p := rfl
@[simp] theorem State.afterBlock_r (s : State) :
    (s.afterBlock).r = s.r := rfl
@[simp] theorem State.afterBlock_eoi (s : State) :
    (s.afterBlock).eoi = s.eoi := rfl
@[simp] theorem State.afterBlock_store (s : State) :
    (s.afterBlock).store = s.store := rfl
@[simp] theorem State.afterBlock_pindex (s : State) :
    (s.afterBlock).pindex = s.pindex := rfl
@[simp] theorem State.afterBlock_sym (s : State) :
    (s.afterBlock).sym = [] := rfl
@[simp] theorem State.afterBlock_symcount (s : State) :
    (s.afterBlock).symcount = 0 := rfl
@[simp] theorem State.afterBlock_freqLL (s : State) :
    (s.afterBlock).freqLL = Vector.replicate 286 0 := rfl
@[simp] theorem State.afterBlock_freqD (s : State) :
    (s.afterBlock).freqD = Vector.replicate 30 0 := rfl
@[simp] theorem State.afterBlock_work (s : State) :
    (s.afterBlock).work = s.work := rfl
@[simp] theorem State.afterBlock_bitq (s : State) :
    (s.afterBlock).bitq = s.bitq := rfl
@[simp] theorem State.afterBlock_oq (s : State) :
    (s.afterBlock).oq = s.oq := rfl
@[simp] theorem State.afterBlock_isize (s : State) :
    (s.afterBlock).isize = s.isize := rfl
@[simp] theorem State.afterBlock_crc (s : State) :
    (s.afterBlock).crc = s.crc := rfl
@[simp] theorem State.afterBlock_blocks (s : State) :
    (s.afterBlock).blocks = s.blocks + 1 := rfl
@[simp] theorem State.afterBlock_faultcode (s : State) :
    (s.afterBlock).faultcode = s.faultcode := rfl
@[simp] theorem State.afterBlock_resp (s : State) :
    (s.afterBlock).resp = s.resp := rfl
@[simp] theorem State.afterBlock_kind (s : State) :
    (s.afterBlock).kind = s.kind := rfl
@[simp] theorem State.afterBlock_freeCtr (s : State) :
    (s.afterBlock).freeCtr = s.freeCtr := rfl
@[simp] theorem State.afterBlock_turns (s : State) :
    (s.afterBlock).turns = s.turns := rfl

/-! ## `State.takeTurn` -/

@[simp] theorem State.takeTurn_phase (s : State) :
    (s.takeTurn).phase = s.phase := rfl
@[simp] theorem State.takeTurn_p (s : State) :
    (s.takeTurn).p = s.p := rfl
@[simp] theorem State.takeTurn_r (s : State) :
    (s.takeTurn).r = s.r := rfl
@[simp] theorem State.takeTurn_eoi (s : State) :
    (s.takeTurn).eoi = s.eoi := rfl
@[simp] theorem State.takeTurn_store (s : State) :
    (s.takeTurn).store = s.store := rfl
@[simp] theorem State.takeTurn_pindex (s : State) :
    (s.takeTurn).pindex = s.pindex := rfl
@[simp] theorem State.takeTurn_sym (s : State) :
    (s.takeTurn).sym = s.sym := rfl
@[simp] theorem State.takeTurn_symcount (s : State) :
    (s.takeTurn).symcount = s.symcount := rfl
@[simp] theorem State.takeTurn_freqLL (s : State) :
    (s.takeTurn).freqLL = s.freqLL := rfl
@[simp] theorem State.takeTurn_freqD (s : State) :
    (s.takeTurn).freqD = s.freqD := rfl
@[simp] theorem State.takeTurn_work (s : State) :
    (s.takeTurn).work = s.work := rfl
@[simp] theorem State.takeTurn_bitq (s : State) :
    (s.takeTurn).bitq = s.bitq := rfl
@[simp] theorem State.takeTurn_oq (s : State) :
    (s.takeTurn).oq = s.oq := rfl
@[simp] theorem State.takeTurn_isize (s : State) :
    (s.takeTurn).isize = s.isize := rfl
@[simp] theorem State.takeTurn_crc (s : State) :
    (s.takeTurn).crc = s.crc := rfl
@[simp] theorem State.takeTurn_blocks (s : State) :
    (s.takeTurn).blocks = s.blocks := rfl
@[simp] theorem State.takeTurn_faultcode (s : State) :
    (s.takeTurn).faultcode = s.faultcode := rfl
@[simp] theorem State.takeTurn_resp (s : State) :
    (s.takeTurn).resp = s.resp := rfl
@[simp] theorem State.takeTurn_kind (s : State) :
    (s.takeTurn).kind = s.kind := rfl
@[simp] theorem State.takeTurn_freeCtr (s : State) :
    (s.takeTurn).freeCtr = s.freeCtr := rfl
@[simp] theorem State.takeTurn_turns (s : State) :
    (s.takeTurn).turns = s.turns.drop 1 := rfl

/-! ## `State.recordLit` -/

@[simp] theorem State.recordLit_phase (s : State) (b : Byte) :
    (s.recordLit b).phase = s.phase := rfl
@[simp] theorem State.recordLit_p (s : State) (b : Byte) :
    (s.recordLit b).p = s.p := rfl
@[simp] theorem State.recordLit_r (s : State) (b : Byte) :
    (s.recordLit b).r = s.r := rfl
@[simp] theorem State.recordLit_eoi (s : State) (b : Byte) :
    (s.recordLit b).eoi = s.eoi := rfl
@[simp] theorem State.recordLit_store (s : State) (b : Byte) :
    (s.recordLit b).store = s.store := rfl
@[simp] theorem State.recordLit_pindex (s : State) (b : Byte) :
    (s.recordLit b).pindex = s.pindex := rfl
@[simp] theorem State.recordLit_sym (s : State) (b : Byte) :
    (s.recordLit b).sym = s.sym ++ [.lit b] := rfl
@[simp] theorem State.recordLit_symcount (s : State) (b : Byte) :
    (s.recordLit b).symcount = s.symcount + 1 := rfl
@[simp] theorem State.recordLit_freqLL (s : State) (b : Byte) :
    (s.recordLit b).freqLL = bump s.freqLL b.toNat := rfl
@[simp] theorem State.recordLit_freqD (s : State) (b : Byte) :
    (s.recordLit b).freqD = s.freqD := rfl
@[simp] theorem State.recordLit_work (s : State) (b : Byte) :
    (s.recordLit b).work = s.work := rfl
@[simp] theorem State.recordLit_bitq (s : State) (b : Byte) :
    (s.recordLit b).bitq = s.bitq := rfl
@[simp] theorem State.recordLit_oq (s : State) (b : Byte) :
    (s.recordLit b).oq = s.oq := rfl
@[simp] theorem State.recordLit_isize (s : State) (b : Byte) :
    (s.recordLit b).isize = s.isize := rfl
@[simp] theorem State.recordLit_crc (s : State) (b : Byte) :
    (s.recordLit b).crc = s.crc := rfl
@[simp] theorem State.recordLit_blocks (s : State) (b : Byte) :
    (s.recordLit b).blocks = s.blocks := rfl
@[simp] theorem State.recordLit_faultcode (s : State) (b : Byte) :
    (s.recordLit b).faultcode = s.faultcode := rfl
@[simp] theorem State.recordLit_resp (s : State) (b : Byte) :
    (s.recordLit b).resp = s.resp := rfl
@[simp] theorem State.recordLit_kind (s : State) (b : Byte) :
    (s.recordLit b).kind = s.kind := rfl
@[simp] theorem State.recordLit_freeCtr (s : State) (b : Byte) :
    (s.recordLit b).freeCtr = s.freeCtr := rfl
@[simp] theorem State.recordLit_turns (s : State) (b : Byte) :
    (s.recordLit b).turns = s.turns := rfl

/-! ## `State.recordPair` -/

@[simp] theorem State.recordPair_phase (s : State) (l d : SymCode) :
    (s.recordPair l d).phase = s.phase := rfl
@[simp] theorem State.recordPair_p (s : State) (l d : SymCode) :
    (s.recordPair l d).p = s.p := rfl
@[simp] theorem State.recordPair_r (s : State) (l d : SymCode) :
    (s.recordPair l d).r = s.r := rfl
@[simp] theorem State.recordPair_eoi (s : State) (l d : SymCode) :
    (s.recordPair l d).eoi = s.eoi := rfl
@[simp] theorem State.recordPair_store (s : State) (l d : SymCode) :
    (s.recordPair l d).store = s.store := rfl
@[simp] theorem State.recordPair_pindex (s : State) (l d : SymCode) :
    (s.recordPair l d).pindex = s.pindex := rfl
@[simp] theorem State.recordPair_sym (s : State) (l d : SymCode) :
    (s.recordPair l d).sym = s.sym ++ [.len l.sym l.xv l.xb] ++ [.dist d.sym d.xv d.xb] := rfl
@[simp] theorem State.recordPair_symcount (s : State) (l d : SymCode) :
    (s.recordPair l d).symcount = s.symcount + 1 + 1 := rfl
@[simp] theorem State.recordPair_freqLL (s : State) (l d : SymCode) :
    (s.recordPair l d).freqLL = bump s.freqLL l.sym := rfl
@[simp] theorem State.recordPair_freqD (s : State) (l d : SymCode) :
    (s.recordPair l d).freqD = bump s.freqD d.sym := rfl
@[simp] theorem State.recordPair_work (s : State) (l d : SymCode) :
    (s.recordPair l d).work = s.work := rfl
@[simp] theorem State.recordPair_bitq (s : State) (l d : SymCode) :
    (s.recordPair l d).bitq = s.bitq := rfl
@[simp] theorem State.recordPair_oq (s : State) (l d : SymCode) :
    (s.recordPair l d).oq = s.oq := rfl
@[simp] theorem State.recordPair_isize (s : State) (l d : SymCode) :
    (s.recordPair l d).isize = s.isize := rfl
@[simp] theorem State.recordPair_crc (s : State) (l d : SymCode) :
    (s.recordPair l d).crc = s.crc := rfl
@[simp] theorem State.recordPair_blocks (s : State) (l d : SymCode) :
    (s.recordPair l d).blocks = s.blocks := rfl
@[simp] theorem State.recordPair_faultcode (s : State) (l d : SymCode) :
    (s.recordPair l d).faultcode = s.faultcode := rfl
@[simp] theorem State.recordPair_resp (s : State) (l d : SymCode) :
    (s.recordPair l d).resp = s.resp := rfl
@[simp] theorem State.recordPair_kind (s : State) (l d : SymCode) :
    (s.recordPair l d).kind = s.kind := rfl
@[simp] theorem State.recordPair_freeCtr (s : State) (l d : SymCode) :
    (s.recordPair l d).freeCtr = s.freeCtr := rfl
@[simp] theorem State.recordPair_turns (s : State) (l d : SymCode) :
    (s.recordPair l d).turns = s.turns := rfl

end Sys2Proof.Machine
end

