-- ==== Sys2Proof/Laws/Memory.lean ====
section
/-! SUPPORT. The input store and the prefix index: a read after a write, what an operation leaves
alone, and that every operation keeps the canonical form. -/

namespace Sys2Proof.Machine

/-! ## The input store -/

theorem Memory.read_write_self (m : Memory) (a : Nat) (b : Byte) :
    (m.write a b).read a = some b := by
  induction m with
  | nil => simp [Memory.write, Memory.read]
  | cons c m ih =>
    obtain ⟨k, x⟩ := c
    unfold Memory.write
    split
    · simp [Memory.read]
    · split
      · simp [Memory.read]
      · rename_i h1 h2
        simp only [Memory.read, if_neg (Ne.symm h2), ih]

theorem Memory.read_write_other (m : Memory) (a a' : Nat) (b : Byte) (h : a' ≠ a) :
    (m.write a b).read a' = m.read a' := by
  induction m with
  | nil => simp [Memory.write, Memory.read, h.symm]
  | cons c m ih =>
    obtain ⟨k, x⟩ := c
    unfold Memory.write
    split
    · simp [Memory.read, h.symm]
    · split
      · rename_i h1 h2
        subst h2
        simp [Memory.read, h.symm]
      · simp only [Memory.read, ih]

theorem Memory.mem_keys_write (m : Memory) (a k : Nat) (b : Byte) :
    k ∈ (m.write a b).map Prod.fst ↔ k = a ∨ k ∈ m.map Prod.fst := by
  induction m with
  | nil => simp [Memory.write]
  | cons c m ih =>
    obtain ⟨j, x⟩ := c
    unfold Memory.write
    split
    · simp
    · split
      · rename_i h1 h2
        subst h2
        simp
      · rw [List.map_cons, List.mem_cons, ih, List.map_cons, List.mem_cons]
        tauto

/-- A write keeps the canonical form. -/
theorem Memory.wf_write (m : Memory) (a : Nat) (b : Byte) (h : m.wf) : (m.write a b).wf := by
  induction m with
  | nil => simp [Memory.wf, Memory.write]
  | cons c m ih =>
    obtain ⟨k, x⟩ := c
    have hk : ∀ j ∈ m.map Prod.fst, k < j := (List.pairwise_cons.1 h).1
    have hm : Memory.wf m := (List.pairwise_cons.1 h).2
    unfold Memory.write
    split
    · rename_i h1
      refine List.pairwise_cons.2 ⟨fun j hj => ?_, h⟩
      rcases List.mem_cons.1 hj with rfl | hj
      · exact h1
      · exact lt_trans h1 (hk j hj)
    · split
      · rename_i h1 h2
        subst h2
        exact List.pairwise_cons.2 ⟨hk, hm⟩
      · rename_i h1 h2
        refine List.pairwise_cons.2 ⟨fun j hj => ?_, ih hm⟩
        rcases (Memory.mem_keys_write m a j b).1 hj with rfl | hj
        · simp only; omega
        · exact hk j hj

/-- Letting go of old positions keeps the canonical form. -/
theorem Memory.wf_dropBelow (m : Memory) (a : Nat) (h : m.wf) : (m.dropBelow a).wf :=
  List.Pairwise.sublist (List.Sublist.map _ List.filter_sublist) h

/-- A position that is kept reads as before; one that is let go of holds nothing. -/
theorem Memory.read_dropBelow (m : Memory) (a k : Nat) :
    (m.dropBelow a).read k = if a ≤ k then m.read k else none := by
  induction m with
  | nil => simp [Memory.dropBelow, Memory.read]
  | cons c m ih =>
    obtain ⟨j, x⟩ := c
    unfold Memory.dropBelow at ih ⊢
    by_cases hj : a ≤ j
    · rw [List.filter_cons_of_pos (by simpa using hj)]
      simp only [Memory.read, ih]
      by_cases hjk : j = k
      · subst hjk; simp [hj]
      · simp [hjk]
    · rw [List.filter_cons_of_neg (by simpa using hj), ih]
      by_cases hak : a ≤ k
      · have : j ≠ k := by omega
        simp [Memory.read, this, hak]
      · simp [hak]

/-- Writing past every listed position appends the cell. -/
theorem Memory.write_append (m : Memory) (a : Nat) (b : Byte) (h : ∀ c ∈ m, c.1 < a) :
    m.write a b = m ++ [(a, b)] := by
  induction m with
  | nil => rfl
  | cons c m ih =>
    obtain ⟨k, x⟩ := c
    have hk : k < a := h (k, x) (List.mem_cons_self ..)
    have hn : ¬ a < k := by omega
    have hne : a ≠ k := by omega
    simp only [Memory.write, if_neg hn, if_neg hne, List.cons_append]
    rw [ih fun c hc => h c (List.mem_cons_of_mem _ hc)]

/-- Which positions a store holds a byte for: those it lists. -/
theorem Memory.read_isSome (m : Memory) (a : Nat) :
    (m.read a).isSome = true ↔ a ∈ m.map Prod.fst := by
  induction m with
  | nil => simp [Memory.read]
  | cons c m ih =>
    obtain ⟨k, x⟩ := c
    by_cases hk : k = a
    · simp [Memory.read, hk]
    · have : ¬ a = k := fun h => hk h.symm
      simp [Memory.read, hk, ih, this]

theorem reset_store_wf : State.reset.store.wf := List.Pairwise.nil

/-! ## The prefix index -/

theorem PrefixIndex.get_put_self (x : PrefixIndex) (k : Key) (l : List Nat) (h : x.wf) :
    (x.put k l).get k = l := by
  induction x with
  | nil => by_cases hl : l = [] <;> simp [PrefixIndex.put, PrefixIndex.get, hl]
  | cons e x ih =>
    obtain ⟨j, m⟩ := e
    have hp := List.pairwise_cons.1 h.1
    have hx : PrefixIndex.wf x := ⟨hp.2, fun e he => h.2 e (List.mem_cons_of_mem _ he)⟩
    have habs : ∀ i : Key, i.toNat ≤ j.toNat → PrefixIndex.get x i = [] := by
      intro i hi
      have : ∀ y : PrefixIndex, (∀ e ∈ y, j.toNat < e.1.toNat) → PrefixIndex.get y i = [] := by
        intro y hy
        induction y with
        | nil => rfl
        | cons e y ihy =>
          have h1 := hy e (List.mem_cons_self ..)
          have hne : e.1 ≠ i := by rintro rfl; omega
          simp only [PrefixIndex.get, if_neg hne]
          exact ihy fun e he => hy e (List.mem_cons_of_mem _ he)
      exact this x fun e he => hp.1 _ (List.mem_map_of_mem he)
    unfold PrefixIndex.put
    split
    · rename_i h1
      have hne : j ≠ k := by rintro rfl; omega
      split
      · rename_i hl
        simp [PrefixIndex.get, hne, hl, habs k (by omega)]
      · simp [PrefixIndex.get]
    · split
      · rename_i h1 h2
        subst h2
        split
        · rename_i hl
          rw [hl]
          exact habs k le_rfl
        · simp [PrefixIndex.get]
      · rename_i h1 h2
        simp only [PrefixIndex.get, if_neg (Ne.symm h2)]
        exact ih hx

theorem PrefixIndex.get_put_other (x : PrefixIndex) (k k' : Key) (l : List Nat) (h : k' ≠ k) :
    (x.put k l).get k' = x.get k' := by
  induction x with
  | nil => by_cases hl : l = [] <;> simp [PrefixIndex.put, PrefixIndex.get, hl, h.symm]
  | cons e x ih =>
    obtain ⟨j, m⟩ := e
    unfold PrefixIndex.put
    split
    · split
      · rfl
      · simp [PrefixIndex.get, h.symm]
    · split
      · rename_i h1 h2
        subst h2
        split <;> simp [PrefixIndex.get, h.symm]
      · simp only [PrefixIndex.get, ih]

theorem PrefixIndex.mem_keys_put (x : PrefixIndex) (k : Key) (l : List Nat) (e : Key × List Nat)
    (h : e ∈ x.put k l) : (e = (k, l) ∧ l ≠ []) ∨ e ∈ x := by
  induction x with
  | nil =>
    unfold PrefixIndex.put at h
    split at h
    · simp at h
    · rename_i hl
      exact .inl ⟨by simpa using h, hl⟩
  | cons c x ih =>
    obtain ⟨j, m⟩ := c
    unfold PrefixIndex.put at h
    split at h
    · split at h
      · exact .inr h
      · rename_i hl
        rcases List.mem_cons.1 h with h | h
        · exact .inl ⟨h, hl⟩
        · exact .inr h
    · split at h
      · split at h
        · exact .inr (List.mem_cons_of_mem _ h)
        · rename_i hl
          rcases List.mem_cons.1 h with h | h
          · exact .inl ⟨h, hl⟩
          · exact .inr (List.mem_cons_of_mem _ h)
      · rcases List.mem_cons.1 h with h | h
        · exact .inr (h ▸ List.mem_cons_self ..)
        · rcases ih h with h | h
          · exact .inl h
          · exact .inr (List.mem_cons_of_mem _ h)

/-- Setting a list keeps the canonical form. -/
theorem PrefixIndex.wf_put (x : PrefixIndex) (k : Key) (l : List Nat) (h : x.wf) :
    (x.put k l).wf := by
  refine ⟨?_, fun e he => ?_⟩
  · induction x with
    | nil => by_cases hl : l = [] <;> simp [PrefixIndex.put, hl]
    | cons c x ih =>
      obtain ⟨j, m⟩ := c
      have hp := List.pairwise_cons.1 h.1
      have hx : PrefixIndex.wf x := ⟨hp.2, fun e he => h.2 e (List.mem_cons_of_mem _ he)⟩
      unfold PrefixIndex.put
      split
      · rename_i h1
        split
        · exact h.1
        · refine List.pairwise_cons.2 ⟨fun i hi => ?_, h.1⟩
          rcases List.mem_cons.1 hi with rfl | hi
          · exact h1
          · exact lt_trans h1 (hp.1 i hi)
      · split
        · rename_i h1 h2
          subst h2
          split
          · exact hp.2
          · exact List.pairwise_cons.2 ⟨hp.1, hp.2⟩
        · rename_i h1 h2
          refine List.pairwise_cons.2 ⟨fun i hi => ?_, ih hx⟩
          obtain ⟨e, he, rfl⟩ := List.mem_map.1 hi
          rcases PrefixIndex.mem_keys_put x k l e he with ⟨rfl, -⟩ | he
          · have : j.toNat ≠ k.toNat := fun hh => h2 (BitVec.eq_of_toNat_eq hh.symm)
            simp only; omega
          · exact hp.1 _ (List.mem_map_of_mem he)
  · rcases PrefixIndex.mem_keys_put x k l e he with ⟨rfl, hl⟩ | he
    · exact hl
    · exact h.2 e he

theorem PrefixIndex.wf_evict (x : PrefixIndex) (k : Key) (e : Nat) (h : x.wf) : (x.evict k e).wf := by
  unfold PrefixIndex.evict
  simp only
  split
  · exact PrefixIndex.wf_put _ _ _ h
  · exact h

theorem PrefixIndex.wf_register (x : PrefixIndex) (k : Key) (q : Nat) (h : x.wf) :
    (x.register k q).wf := PrefixIndex.wf_put _ _ _ h

/-- Registration puts the position in front of its key's list and leaves the other lists alone. -/
theorem PrefixIndex.get_register (x : PrefixIndex) (k k' : Key) (q : Nat) (h : x.wf) :
    (x.register k q).get k' = if k' = k then q :: x.get k else x.get k' := by
  unfold PrefixIndex.register
  by_cases hk : k' = k
  · subst hk; simp [PrefixIndex.get_put_self _ _ _ h]
  · simp [hk, PrefixIndex.get_put_other _ _ _ _ hk]

/-- Eviction removes the position from the end of its key's list, if it stands there, and leaves the
other lists alone. -/
theorem PrefixIndex.get_evict (x : PrefixIndex) (k k' : Key) (e : Nat) (h : x.wf) :
    (x.evict k e).get k' =
      if k' = k ∧ (x.get k).getLast? = some e then (x.get k).dropLast else x.get k' := by
  unfold PrefixIndex.evict
  simp only
  by_cases hl : (x.get k).getLast? = some e
  · by_cases hk : k' = k
    · subst hk; simp [hl, PrefixIndex.get_put_self _ _ _ h]
    · simp [hl, hk, PrefixIndex.get_put_other _ _ _ _ hk]
  · simp [hl]

theorem reset_pindex_wf : State.reset.pindex.wf := ⟨List.Pairwise.nil, fun _ h => absurd h List.not_mem_nil⟩

end Sys2Proof.Machine
end

