-- ==== Sys2Proof/Laws/Ops.lean ====
section
/-! SUPPORT. What the shared operations can do, said once: bit fields, window reads, CONSUME, the
match finder, and the steps of the core agent. The proofs cite these instead of unfolding. -/

namespace Sys2Proof.Machine

/-! ## Bits -/

@[simp] theorem length_fieldBits (v n : Nat) : (fieldBits v n).length = n := by simp [fieldBits]

@[simp] theorem length_codeBits (c n : Nat) : (codeBits c n).length = n := by simp [codeBits]

@[simp] theorem length_headerBits (f b : Nat) : (headerBits f b).length = 3 := by simp [headerBits]

@[simp] theorem length_llBits (t : CodeTables) (sym xv xb : Nat) :
    (llBits t sym xv xb).length = (entry t.lenLL sym).toNat + xb := by simp [llBits]

@[simp] theorem length_dBits (t : CodeTables) (sym xv xb : Nat) :
    (dBits t sym xv xb).length = (entry t.lenD sym).toNat + xb := by simp [dBits]

@[simp] theorem length_clBits (w : Work) (sym xv xb : Nat) :
    (clBits w sym xv xb).length = (entry w.lenCL sym).toNat + xb := by simp [clBits]

/-- A dynamic block's fields after `BTYPE` take at least 26 bits: 14 of counts and 3 for each of at
least four code lengths. -/
theorem length_tableBits_ge (w : Work) : 26 ≤ (tableBits w).length := by
  have h : ∀ (n : Nat) (f : Nat → List Bool), (∀ i, (f i).length = 3) →
      ((List.range n).flatMap f).length = 3 * n := by
    intro n f hf
    rw [List.length_flatMap]
    simp [hf, Nat.mul_comm]
  unfold tableBits
  simp only [List.length_append, length_fieldBits]
  rw [h _ _ fun i => length_fieldBits _ 3]
  omega

/-- Padding ends a queue at a byte boundary. -/
theorem add_padLength_mod (n : Nat) : (n + padLength n) % 8 = 0 := by unfold padLength; omega

theorem padLength_lt (n : Nat) : padLength n < 8 := by unfold padLength; omega

theorem bitsValue_lt (l : List Bool) : bitsValue l < 2 ^ l.length := by
  induction l with
  | nil => simp [bitsValue]
  | cons b l ih =>
    rw [bitsValue, List.length_cons, Nat.pow_succ]
    cases b <;> simp [bitNat] <;> omega

theorem testBit_bitsValue (l : List Bool) (i : Nat) : (bitsValue l).testBit i = l.getD i false := by
  induction l generalizing i with
  | nil => simp [bitsValue]
  | cons b l ih =>
    cases i with
    | zero => cases b <;> simp [bitsValue, bitNat, Nat.testBit_zero, Nat.add_mod]
    | succ i =>
      rw [Nat.testBit_succ, List.getD_cons_succ, ← ih]
      have : bitsValue (b :: l) / 2 = bitsValue l := by
        have hb : bitNat b < 2 := by cases b <;> decide
        show (bitNat b + 2 * bitsValue l) / 2 = bitsValue l
        omega
      rw [this]

/-! ## Table entries -/

theorem entry_of_lt {w n : Nat} (t : Vector (BitVec w) n) {i : Nat} (h : i < n) :
    entry t i = t[i] := by unfold entry; simp [Vector.getD, h]

theorem entry_of_ge {w n : Nat} (t : Vector (BitVec w) n) {i : Nat} (h : n ≤ i) : entry t i = 0 := by
  unfold entry; simp [Vector.getD, Nat.not_lt.2 h]

@[simp] theorem entry_replicate {w n : Nat} (i : Nat) :
    entry (Vector.replicate n (0 : BitVec w)) i = 0 := by
  by_cases h : i < n
  · rw [entry_of_lt _ h]; simp
  · exact entry_of_ge _ (Nat.le_of_not_lt h)

/-- Counting a symbol raises its entry by 1 and no other (R180). -/
theorem entry_bump {n : Nat} (t : Vector Word n) {j : Nat} (hj : j < n) (i : Nat) :
    entry (bump t j) i = entry t i + if i = j then 1 else 0 := by
  by_cases h : i < n
  · rw [entry_of_lt _ h, entry_of_lt _ h]
    unfold bump
    rw [Vector.getElem_setIfInBounds]
    by_cases hij : j = i
    · subst hij; simp [entry_of_lt _ h]
    · rw [if_neg hij, if_neg (Ne.symm hij)]; simp
  · have : i ≠ j := by omega
    rw [entry_of_ge _ (Nat.le_of_not_lt h), entry_of_ge _ (Nat.le_of_not_lt h), if_neg this]; rfl

theorem entry_packTable {w n : Nat} (l : List Nat) {i : Nat} (h : i < n) :
    entry (packTable w n l) i = BitVec.ofNat w (l.getD i 0) := by
  rw [entry_of_lt _ h]; simp [packTable]

/-! ## Guards -/

theorem lookaheadFull_iff (n : Nat) : lookaheadFull n = true ↔ Config.laCap ≤ n := by
  unfold lookaheadFull
  rw [Bool.and_eq_true, decide_eq_true_eq, decide_eq_true_eq]
  unfold Config.laCap
  omega

theorem lookaheadFull_false_iff (n : Nat) : lookaheadFull n = false ↔ n < Config.laCap := by
  rw [← Bool.not_eq_true, lookaheadFull_iff, Nat.not_le]

theorem positionLimit_iff (r : Nat) : positionLimit r = true ↔ r + 1 = 2 ^ Config.posWidth := by
  have h : 2 ^ 33 ≤ 2 ^ Config.posWidth :=
    Nat.pow_le_pow_right (by decide) (by unfold Config.posWidth; exact Nat.le_add_left ..)
  unfold positionLimit
  rw [Bool.and_eq_true, decide_eq_true_eq, decide_eq_true_eq]
  exact ⟨fun h => h.2, fun hr => ⟨hr ▸ h, hr⟩⟩

theorem oqFull_iff (n : Nat) : oqFull n = true ↔ Config.oqDepth ≤ n := by
  unfold oqFull
  rw [Bool.and_eq_true, decide_eq_true_eq, decide_eq_true_eq]
  unfold Config.oqDepth
  omega

theorem oqFull_false_iff (n : Nat) : oqFull n = false ↔ n < Config.oqDepth := by
  rw [← Bool.not_eq_true, oqFull_iff, Nat.not_le]

theorem laCap_ge : 260 ≤ Config.laCap := by unfold Config.laCap; exact Nat.le_add_left ..

theorem oqDepth_pos : 0 < Config.oqDepth := by unfold Config.oqDepth; exact Nat.succ_pos _

theorem posWidth_ge : 33 ≤ Config.posWidth := by unfold Config.posWidth; exact Nat.le_add_left ..

theorem ringSize_ge : 32768 + Config.laCap ≤ Config.ringSize := by unfold Config.ringSize; omega

/-! ## The window -/

theorem windowStart_eq (p : Nat) : windowStart p = p - 32768 := by
  unfold windowStart
  by_cases h : p ≤ 32768
  · rw [if_pos (show p ≤ Config.maxBackrefDist from h)]; omega
  · rw [if_neg (show ¬ p ≤ Config.maxBackrefDist from h)]; rfl

theorem windowStart_le (p : Nat) : windowStart p ≤ p := by rw [windowStart_eq]; omega

/-- `WSTART <= q` says that `q` is at most 32768 behind the cursor. -/
theorem windowStart_le_iff (p q : Nat) : windowStart p ≤ q ↔ p ≤ q + 32768 := by
  rw [windowStart_eq]; omega

/-! ## Window reads -/

/-- A window read depends on the cursor, the count and the store alone. -/
theorem State.winRead_congr {s t : State} (hp : t.p = s.p) (hr : t.r = s.r) (hm : t.store = s.store)
    (q : Nat) : t.winRead q = s.winRead q := by
  unfold State.winRead
  rw [hp, hr, hm]

theorem State.keyAt_congr {s t : State} (hp : t.p = s.p) (hr : t.r = s.r) (hm : t.store = s.store)
    (q : Nat) : t.keyAt q = s.keyAt q := by
  have h := State.winRead_congr hp hr hm
  simp only [State.keyAt, h]

/-- A key is known where its three bytes are (R151). -/
theorem State.keyAt_some {s : State} {q : Nat} {k : Key} (h : s.keyAt q = some k) :
    ∃ a b c, s.winRead q = some a ∧ s.winRead (q + 1) = some b ∧ s.winRead (q + 2) = some c ∧
      k = a ++ b ++ c := by
  unfold State.keyAt at h
  split at h
  · rename_i a b c ha hb hc
    exact ⟨a, b, c, ha, hb, hc, (Option.some.inj h).symm⟩
  · simp at h

/-- A window read is within `WSTART <= q < R` (R72). -/
theorem State.winRead_some {s : State} {q : Nat} {b : Byte} (h : s.winRead q = some b) :
    s.wstart ≤ q ∧ q < s.r ∧ s.store.read q = some b := by
  unfold State.winRead at h
  split at h
  · rename_i hq; exact ⟨(windowStart_le_iff _ _).2 hq.1, hq.2, h⟩
  · simp at h

/-- Inside `WSTART <= q < R` a window read is a read of the store (R72). -/
theorem State.winRead_eq {s : State} {q : Nat} (h1 : s.wstart ≤ q) (h2 : q < s.r) :
    s.winRead q = s.store.read q := by
  unfold State.winRead
  rw [if_pos ⟨(windowStart_le_iff _ _).1 h1, h2⟩]

/-! ## CONSUME -/

/-- Everything CONSUME can do (R153). -/
theorem State.consume_cases {s t : State} (h : s.consume = some t) :
    s.p < s.r ∧ ∃ x y, s.evictedIndex = some x ∧ s.registeredIndex x = some y ∧
      t = { s with p := s.p + 1, pindex := y, store := s.store.dropBelow (windowStart (s.p + 1)) } := by
  unfold State.consume at h
  split at h
  · rename_i hp
    split at h
    · simp at h
    · rename_i x hx
      split at h
      · simp at h
      · rename_i y hy
        exact ⟨hp, x, y, hx, hy, by simpa using h.symm⟩
  · simp at h

/-- `n` times CONSUME moves the cursor on by `n`, within the input. -/
theorem State.consumeN_p {n : Nat} {s t : State} (h : State.consumeN n s = some t) :
    t.p = s.p + n ∧ (0 < n → t.p ≤ s.r) ∧ t.r = s.r := by
  induction n generalizing s with
  | zero =>
    have : s = t := by simpa [State.consumeN] using h
    subst this; simp
  | succ n ih =>
    unfold State.consumeN at h
    split at h
    · simp at h
    · rename_i s' hs
      obtain ⟨hp, x, y, -, -, rfl⟩ := State.consume_cases hs
      obtain ⟨h1, h2, h3⟩ := ih h
      simp only at h1 h2 h3
      refine ⟨by omega, fun _ => ?_, h3⟩
      rcases Nat.eq_zero_or_pos n with h0 | h0
      · subst h0; omega
      · exact h2 h0

/-- What CONSUME leaves alone: everything but the cursor, the index and the store. -/
theorem State.consumeN_frame {n : Nat} {s t : State} (h : State.consumeN n s = some t) :
    t = { s with p := t.p, pindex := t.pindex, store := t.store } := by
  induction n generalizing s with
  | zero =>
    have : s = t := by simpa [State.consumeN] using h
    subst this; rfl
  | succ n ih =>
    unfold State.consumeN at h
    split at h
    · simp at h
    · rename_i s' hs
      obtain ⟨-, x, y, -, -, hs'⟩ := State.consume_cases hs
      rw [ih h, hs']

/-- CONSUME keeps the canonical forms of the store and the index. -/
theorem State.consume_wf {s t : State} (h : s.consume = some t) (hm : s.store.wf)
    (hx : s.pindex.wf) : t.store.wf ∧ t.pindex.wf := by
  obtain ⟨-, x, y, he, hr, rfl⟩ := State.consume_cases h
  refine ⟨Memory.wf_dropBelow _ _ hm, ?_⟩
  have hx' : PrefixIndex.wf x := by
    unfold State.evictedIndex at he
    split at he
    · split at he
      · rw [← Option.some.inj he]; exact PrefixIndex.wf_evict _ _ _ hx
      · simp at he
    · rw [← Option.some.inj he]; exact hx
  unfold State.registeredIndex at hr
  split at hr
  · split at hr
    · rw [← Option.some.inj hr]; exact PrefixIndex.wf_register _ _ _ hx'
    · simp at hr
  · rw [← Option.some.inj hr]; exact hx'

theorem State.consumeN_wf {n : Nat} {s t : State} (h : State.consumeN n s = some t)
    (hm : s.store.wf) (hx : s.pindex.wf) : t.store.wf ∧ t.pindex.wf := by
  induction n generalizing s with
  | zero =>
    have : s = t := by simpa [State.consumeN] using h
    subst this; exact ⟨hm, hx⟩
  | succ n ih =>
    unfold State.consumeN at h
    split at h
    · simp at h
    · rename_i s' hs
      obtain ⟨h1, h2⟩ := State.consume_wf hs hm hx
      exact ih h h1 h2

/-! ## The match finder -/

/-- A comparison of at most `n` bytes from `k` on counts between `k` and `k + n` (R157), and every byte
it counted past `k` is equal in both places (R156). -/
theorem State.matchFrom_spec {s : State} {q p n k m : Nat} (h : s.matchFrom q p n k = some m) :
    k ≤ m ∧ m ≤ k + n ∧
      ∀ j, k ≤ j → j < m → ∃ b, s.winRead (q + j) = some b ∧ s.winRead (p + j) = some b := by
  induction n generalizing k with
  | zero =>
    have : k = m := by simpa [State.matchFrom] using h
    subst this; exact ⟨le_rfl, le_rfl, fun j h1 h2 => absurd h1 (by omega)⟩
  | succ n ih =>
    unfold State.matchFrom at h
    split at h
    · rename_i a b ha hb
      split at h
      · rename_i hab
        obtain ⟨h1, h2, h3⟩ := ih h
        refine ⟨by omega, by omega, fun j hj1 hj2 => ?_⟩
        rcases Nat.eq_or_lt_of_le hj1 with rfl | hj
        · exact ⟨a, ha, hab ▸ hb⟩
        · exact h3 j hj hj2
      · have : k = m := by simpa using h
        subst this; exact ⟨le_rfl, by omega, fun j h1 h2 => absurd h1 (by omega)⟩
    · simp at h

/-- The scan answers the best it started with or a candidate of the list with its own comparison
(R156, R162). -/
theorem State.scan_spec {s : State} {p cap : Nat} {l : List Nat} {b c : Candidate}
    (h : s.scan p cap l b = some c) :
    c = b ∨ ∃ q ∈ l, s.matchFrom q p cap 0 = some c.length ∧ c.distance = p - q := by
  induction l generalizing b with
  | nil => exact .inl (by simpa [State.scan] using h.symm)
  | cons q l ih =>
    unfold State.scan at h
    split at h
    · simp at h
    · rename_i k hk
      simp only at h
      generalize hb : (if b.length < k then (⟨k, p - q⟩ : Candidate) else b) = b' at h
      have hb' : b' = b ∨ ∃ q' ∈ q :: l, s.matchFrom q' p cap 0 = some b'.length ∧
          b'.distance = p - q' := by
        split at hb
        · subst hb; exact .inr ⟨q, List.mem_cons_self .., hk, rfl⟩
        · exact .inl hb.symm
      split at h
      · rw [← Option.some.inj h]; exact hb'
      · rcases ih h with hc | ⟨q', hq', h1, h2⟩
        · rw [hc]; exact hb'
        · exact .inr ⟨q', List.mem_cons_of_mem _ hq', h1, h2⟩

/-- What FIND_BEST_MATCH answers (R156): no usable match, or the comparison of a candidate of the
cursor's key, at least 3 bytes long. -/
theorem State.findBestMatch_cases {s : State} {p avail : Nat} {c : Candidate}
    (h : s.findBestMatch p avail = some c) :
    c = ⟨0, 0⟩ ∨ ∃ key, ∃ q ∈ s.pindex.get key, 4 ≤ avail ∧ s.keyAt p = some key ∧ 3 ≤ c.length ∧
      s.matchFrom q p (min 258 avail) 0 = some c.length ∧ c.distance = p - q := by
  unfold State.findBestMatch at h
  split at h
  · exact .inl (by simpa using h.symm)
  · rename_i ha
    split at h
    · simp at h
    · rename_i key hkey
      split at h
      · simp at h
      · rename_i best hbest
        split at h
        · exact .inl (by simpa using h.symm)
        · rename_i hlen
          have hc : best = c := by simpa using h
          subst hc
          simp only [Config.minMatch, Nat.not_lt, Config.minLookahead] at hlen ha
          rcases State.scan_spec hbest with h0 | ⟨q, hq, h1, h2⟩
          · rw [h0] at hlen; simp at hlen
          · exact .inr ⟨key, q, hq, ha, hkey, hlen, by simpa using h1, h2⟩

/-- A match is 3 to 258 bytes long and within the available bytes (R156, R157). -/
theorem State.findBestMatch_length {s : State} {p avail : Nat} {c : Candidate}
    (h : s.findBestMatch p avail = some c) (hl : 0 < c.length) :
    3 ≤ c.length ∧ c.length ≤ 258 ∧ c.length ≤ avail := by
  rcases State.findBestMatch_cases h with rfl | ⟨key, q, -, -, -, h3, hm, -⟩
  · simp at hl
  · have := (State.matchFrom_spec hm).2.1
    omega

/-! ## The core agent's steps -/

/-- How an ENCODE_STEP moves on past `n` bytes. -/
theorem State.advance_cases {s t : State} {n : Nat} (h : s.advance n = .next t) :
    ∃ u, State.consumeN n s = some u ∧ t = u.flushTrigger := by
  unfold State.advance at h
  split at h
  · simp at h
  · rename_i u hu
    exact ⟨u, hu, by simpa using h.symm⟩

/-- Everything an ENCODE_STEP that answers a next state can do (R282, R348): raise SYMBUF_OVERFLOW,
encode a match, or encode a literal. -/
theorem State.encodeStep_cases {s t : State} (h : s.encodeStep = .next t) :
    ∃ c, s.findBestMatch s.p s.avail = some c ∧
      ((s.symbufFull = true ∧ t = s.raise .symbufOverflow) ∨
       (s.symbufFull = false ∧ 3 ≤ c.length ∧ ∃ l d u, lenCode c.length = some l ∧
          distCode c.distance = some d ∧ State.consumeN c.length (s.recordPair l d) = some u ∧
          t = u.flushTrigger) ∨
       (s.symbufFull = false ∧ c.length < 3 ∧ ∃ b u, s.winRead s.p = some b ∧
          State.consumeN 1 (s.recordLit b) = some u ∧ t = u.flushTrigger)) := by
  unfold State.encodeStep at h
  split at h
  · simp at h
  · rename_i c hc
    refine ⟨c, hc, ?_⟩
    split at h
    · rename_i h3
      unfold State.encodeMatch at h
      split at h
      · simp at h
      · rename_i l hl
        split at h
        · simp at h
        · rename_i d hd
          split at h
          · rename_i hf
            exact .inl ⟨hf, by simpa using h.symm⟩
          · rename_i hf
            obtain ⟨u, hu, rfl⟩ := State.advance_cases h
            exact .inr (.inl ⟨by simpa using hf, by simpa using h3, l, d, u, hl, hd, hu, rfl⟩)
    · rename_i h3
      unfold State.encodeLiteral at h
      split at h
      · simp at h
      · rename_i b hb
        split at h
        · rename_i hf
          exact .inl ⟨hf, by simpa using h.symm⟩
        · rename_i hf
          obtain ⟨u, hu, rfl⟩ := State.advance_cases h
          exact .inr (.inr ⟨by simpa using hf, by simpa using h3, b, u, hb, hu, rfl⟩)

/-- What the flush trigger does: at most the phase changes (R283). -/
theorem State.flushTrigger_eq (s : State) :
    s.flushTrigger = { s with phase := if 800000 < s.symcount.toNat then .flush else s.phase } := by
  unfold State.flushTrigger
  by_cases h : 800000 < s.symcount.toNat
  · rw [if_pos h, if_pos (by simpa using h)]
  · rw [if_neg h, if_neg (by simpa using h)]

/-- WRITE_DYNAMIC_BLOCK writes with the tables it built, or raises what building them raised (R251). -/
theorem State.writeDynamicBlock_ok {s t : State} {f : BitVec 1} (h : s.writeDynamicBlock f = .ok t) :
    ∃ w, buildDynamicTables s.freqLL s.freqD = .ok w ∧ t = s.writeDynamicWith f w := by
  unfold State.writeDynamicBlock at h
  split at h
  · simp at h
  · rename_i w hw
    exact ⟨w, hw, by simpa using h.symm⟩

/-- Everything FLUSH can do (R284). -/
theorem State.flushStep_cases (s : State) :
    (∃ c, buildDynamicTables s.freqLL s.freqD = .error c ∧ s.flushStep = (s.raise c).freeWork) ∨
    (∃ w, buildDynamicTables s.freqLL s.freqD = .ok w ∧
      s.flushStep = ({ (s.writeDynamicWith 0 w).afterBlock with phase := .drain } : State).freeWork) := by
  unfold State.flushStep State.writeDynamicBlock
  cases buildDynamicTables s.freqLL s.freqD with
  | error c => exact .inl ⟨c, rfl, rfl⟩
  | ok w => exact .inr ⟨w, rfl, rfl⟩

/-- Everything FINISH can do (R286). -/
theorem State.finishStep_cases (s : State) :
    (s.symcount.toNat < 200 ∧
      s.finishStep = ({ (s.writeFixedBlock 1).padToByte.afterBlock with phase := .drainFinal } : State).freeWork) ∨
    (200 ≤ s.symcount.toNat ∧
      ((∃ c, buildDynamicTables s.freqLL s.freqD = .error c ∧ s.finishStep = (s.raise c).freeWork) ∨
       (∃ w, buildDynamicTables s.freqLL s.freqD = .ok w ∧
         s.finishStep =
           ({ (s.writeDynamicWith 1 w).padToByte.afterBlock with phase := .drainFinal } : State).freeWork))) := by
  unfold State.finishStep State.writeFinalBlock State.writeDynamicBlock
  by_cases hl : s.symcount.toNat < 200
  · exact .inl ⟨hl, by rw [if_pos (by simpa using hl)]⟩
  · refine .inr ⟨by omega, ?_⟩
    rw [if_neg (by simpa using hl)]
    cases buildDynamicTables s.freqLL s.freqD with
    | error c => exact .inl ⟨c, rfl, rfl⟩
    | ok w => exact .inr ⟨w, rfl, rfl⟩

end Sys2Proof.Machine
end

