-- ==== Sys2Proof/Laws/PerInstr.lean ====
section
/-! SUPPORT. Statements made instruction by instruction. `EncodeWidth`: an instruction's word fits its
format's width (R90, R98, R101 to R103). -/

namespace Sys2Proof.Laws

/-- The word of an instruction uses no bit above its format's width. -/
def EncodeWidth.Statement (i : Instr) : Prop := (encode i).bits.toNat < 2 ^ (encode i).fmt.width

theorem toNat_ofNat_lt {n m : Nat} (h : n < m) : (BitVec.ofNat 32 n).toNat < m := by
  rw [BitVec.toNat_ofNat]
  exact lt_of_le_of_lt (Nat.mod_le _ _) h

theorem cmdCode_width {opc arg : Nat} (h : opc * 4096 + arg < 65536) :
    (cmdCode opc arg).bits.toNat < 2 ^ (cmdCode opc arg).fmt.width := toNat_ofNat_lt h

theorem llCode_width {sym xv : Nat} (hs : sym < 512) (hx : xv < 32) :
    (llCode sym xv).bits.toNat < 2 ^ (llCode sym xv).fmt.width :=
  toNat_ofNat_lt (by simp only [llCode, Format.width]; omega)

theorem dCode_width {sym xv : Nat} (hs : sym < 32) (hx : xv < 8192) :
    (dCode sym xv).bits.toNat < 2 ^ (dCode sym xv).fmt.width :=
  toNat_ofNat_lt (by simp only [dCode, Format.width]; omega)

theorem clCode_width {sym xv : Nat} (hs : sym < 32) (hx : xv < 128) :
    (clCode sym xv).bits.toNat < 2 ^ (clCode sym xv).fmt.width :=
  toNat_ofNat_lt (by simp only [clCode, Format.width]; omega)

theorem bhCode_width {btype bfinal : Nat} (hb : btype < 4) (hf : bfinal < 2) :
    (bhCode btype bfinal).bits.toNat < 2 ^ (bhCode btype bfinal).fmt.width :=
  toNat_ofNat_lt (by simp only [bhCode, Format.width]; omega)

/-- An extra value fits the widest field of its alphabet. -/
theorem extra_lt {n m : Nat} (x : BitVec n) (h : 2 ^ n ≤ m) : x.toNat < m :=
  lt_of_lt_of_le x.isLt h

theorem EncodeWidth.nop : EncodeWidth.Statement (.nop) :=
  cmdCode_width (by decide)

theorem EncodeWidth.push (b : BitVec 8) : EncodeWidth.Statement (.push b) :=
  cmdCode_width (by have := b.isLt; omega)

theorem EncodeWidth.eoi : EncodeWidth.Statement (.eoi) :=
  cmdCode_width (by decide)

theorem EncodeWidth.pop : EncodeWidth.Statement (.pop) :=
  cmdCode_width (by decide)

theorem EncodeWidth.readReg (idx : BitVec 8) : EncodeWidth.Statement (.readReg idx) :=
  cmdCode_width (by have := idx.isLt; omega)

theorem EncodeWidth.abort : EncodeWidth.Statement (.abort) :=
  cmdCode_width (by decide)

theorem EncodeWidth.reservedOpc6 (arg : BitVec 12) : EncodeWidth.Statement (.reservedOpc6 arg) :=
  cmdCode_width (by have := arg.isLt; omega)

theorem EncodeWidth.reservedOpc7 (arg : BitVec 12) : EncodeWidth.Statement (.reservedOpc7 arg) :=
  cmdCode_width (by have := arg.isLt; omega)

theorem EncodeWidth.reservedOpc8 (arg : BitVec 12) : EncodeWidth.Statement (.reservedOpc8 arg) :=
  cmdCode_width (by have := arg.isLt; omega)

theorem EncodeWidth.reservedOpc9 (arg : BitVec 12) : EncodeWidth.Statement (.reservedOpc9 arg) :=
  cmdCode_width (by have := arg.isLt; omega)

theorem EncodeWidth.reservedOpcA (arg : BitVec 12) : EncodeWidth.Statement (.reservedOpcA arg) :=
  cmdCode_width (by have := arg.isLt; omega)

theorem EncodeWidth.reservedOpcB (arg : BitVec 12) : EncodeWidth.Statement (.reservedOpcB arg) :=
  cmdCode_width (by have := arg.isLt; omega)

theorem EncodeWidth.reservedOpcC (arg : BitVec 12) : EncodeWidth.Statement (.reservedOpcC arg) :=
  cmdCode_width (by have := arg.isLt; omega)

theorem EncodeWidth.reservedOpcD (arg : BitVec 12) : EncodeWidth.Statement (.reservedOpcD arg) :=
  cmdCode_width (by have := arg.isLt; omega)

theorem EncodeWidth.reservedOpcE (arg : BitVec 12) : EncodeWidth.Statement (.reservedOpcE arg) :=
  cmdCode_width (by have := arg.isLt; omega)

theorem EncodeWidth.softReset : EncodeWidth.Statement (.softReset) :=
  cmdCode_width (by decide)

theorem EncodeWidth.lit (b : BitVec 8) : EncodeWidth.Statement (.lit b) :=
  llCode_width (extra_lt b (by decide)) (by decide)

theorem EncodeWidth.eob : EncodeWidth.Statement (.eob) :=
  llCode_width (by decide) (by decide)

theorem EncodeWidth.len257 : EncodeWidth.Statement (.len257) :=
  llCode_width (by decide) (by decide)

theorem EncodeWidth.len258 : EncodeWidth.Statement (.len258) :=
  llCode_width (by decide) (by decide)

theorem EncodeWidth.len259 : EncodeWidth.Statement (.len259) :=
  llCode_width (by decide) (by decide)

theorem EncodeWidth.len260 : EncodeWidth.Statement (.len260) :=
  llCode_width (by decide) (by decide)

theorem EncodeWidth.len261 : EncodeWidth.Statement (.len261) :=
  llCode_width (by decide) (by decide)

theorem EncodeWidth.len262 : EncodeWidth.Statement (.len262) :=
  llCode_width (by decide) (by decide)

theorem EncodeWidth.len263 : EncodeWidth.Statement (.len263) :=
  llCode_width (by decide) (by decide)

theorem EncodeWidth.len264 : EncodeWidth.Statement (.len264) :=
  llCode_width (by decide) (by decide)

theorem EncodeWidth.len265 (xv : BitVec 1) : EncodeWidth.Statement (.len265 xv) :=
  llCode_width (by decide) (extra_lt xv (by decide))

theorem EncodeWidth.len266 (xv : BitVec 1) : EncodeWidth.Statement (.len266 xv) :=
  llCode_width (by decide) (extra_lt xv (by decide))

theorem EncodeWidth.len267 (xv : BitVec 1) : EncodeWidth.Statement (.len267 xv) :=
  llCode_width (by decide) (extra_lt xv (by decide))

theorem EncodeWidth.len268 (xv : BitVec 1) : EncodeWidth.Statement (.len268 xv) :=
  llCode_width (by decide) (extra_lt xv (by decide))

theorem EncodeWidth.len269 (xv : BitVec 2) : EncodeWidth.Statement (.len269 xv) :=
  llCode_width (by decide) (extra_lt xv (by decide))

theorem EncodeWidth.len270 (xv : BitVec 2) : EncodeWidth.Statement (.len270 xv) :=
  llCode_width (by decide) (extra_lt xv (by decide))

theorem EncodeWidth.len271 (xv : BitVec 2) : EncodeWidth.Statement (.len271 xv) :=
  llCode_width (by decide) (extra_lt xv (by decide))

theorem EncodeWidth.len272 (xv : BitVec 2) : EncodeWidth.Statement (.len272 xv) :=
  llCode_width (by decide) (extra_lt xv (by decide))

theorem EncodeWidth.len273 (xv : BitVec 3) : EncodeWidth.Statement (.len273 xv) :=
  llCode_width (by decide) (extra_lt xv (by decide))

theorem EncodeWidth.len274 (xv : BitVec 3) : EncodeWidth.Statement (.len274 xv) :=
  llCode_width (by decide) (extra_lt xv (by decide))

theorem EncodeWidth.len275 (xv : BitVec 3) : EncodeWidth.Statement (.len275 xv) :=
  llCode_width (by decide) (extra_lt xv (by decide))

theorem EncodeWidth.len276 (xv : BitVec 3) : EncodeWidth.Statement (.len276 xv) :=
  llCode_width (by decide) (extra_lt xv (by decide))

theorem EncodeWidth.len277 (xv : BitVec 4) : EncodeWidth.Statement (.len277 xv) :=
  llCode_width (by decide) (extra_lt xv (by decide))

theorem EncodeWidth.len278 (xv : BitVec 4) : EncodeWidth.Statement (.len278 xv) :=
  llCode_width (by decide) (extra_lt xv (by decide))

theorem EncodeWidth.len279 (xv : BitVec 4) : EncodeWidth.Statement (.len279 xv) :=
  llCode_width (by decide) (extra_lt xv (by decide))

theorem EncodeWidth.len280 (xv : BitVec 4) : EncodeWidth.Statement (.len280 xv) :=
  llCode_width (by decide) (extra_lt xv (by decide))

theorem EncodeWidth.len281 (xv : BitVec 5) : EncodeWidth.Statement (.len281 xv) :=
  llCode_width (by decide) (extra_lt xv (by decide))

theorem EncodeWidth.len282 (xv : BitVec 5) : EncodeWidth.Statement (.len282 xv) :=
  llCode_width (by decide) (extra_lt xv (by decide))

theorem EncodeWidth.len283 (xv : BitVec 5) : EncodeWidth.Statement (.len283 xv) :=
  llCode_width (by decide) (extra_lt xv (by decide))

theorem EncodeWidth.len284 (xv : BitVec 5) : EncodeWidth.Statement (.len284 xv) :=
  llCode_width (by decide) (extra_lt xv (by decide))

theorem EncodeWidth.len285 : EncodeWidth.Statement (.len285) :=
  llCode_width (by decide) (by decide)

theorem EncodeWidth.dist0 : EncodeWidth.Statement (.dist0) :=
  dCode_width (by decide) (by decide)

theorem EncodeWidth.dist1 : EncodeWidth.Statement (.dist1) :=
  dCode_width (by decide) (by decide)

theorem EncodeWidth.dist2 : EncodeWidth.Statement (.dist2) :=
  dCode_width (by decide) (by decide)

theorem EncodeWidth.dist3 : EncodeWidth.Statement (.dist3) :=
  dCode_width (by decide) (by decide)

theorem EncodeWidth.dist4 (xv : BitVec 1) : EncodeWidth.Statement (.dist4 xv) :=
  dCode_width (by decide) (extra_lt xv (by decide))

theorem EncodeWidth.dist5 (xv : BitVec 1) : EncodeWidth.Statement (.dist5 xv) :=
  dCode_width (by decide) (extra_lt xv (by decide))

theorem EncodeWidth.dist6 (xv : BitVec 2) : EncodeWidth.Statement (.dist6 xv) :=
  dCode_width (by decide) (extra_lt xv (by decide))

theorem EncodeWidth.dist7 (xv : BitVec 2) : EncodeWidth.Statement (.dist7 xv) :=
  dCode_width (by decide) (extra_lt xv (by decide))

theorem EncodeWidth.dist8 (xv : BitVec 3) : EncodeWidth.Statement (.dist8 xv) :=
  dCode_width (by decide) (extra_lt xv (by decide))

theorem EncodeWidth.dist9 (xv : BitVec 3) : EncodeWidth.Statement (.dist9 xv) :=
  dCode_width (by decide) (extra_lt xv (by decide))

theorem EncodeWidth.dist10 (xv : BitVec 4) : EncodeWidth.Statement (.dist10 xv) :=
  dCode_width (by decide) (extra_lt xv (by decide))

theorem EncodeWidth.dist11 (xv : BitVec 4) : EncodeWidth.Statement (.dist11 xv) :=
  dCode_width (by decide) (extra_lt xv (by decide))

theorem EncodeWidth.dist12 (xv : BitVec 5) : EncodeWidth.Statement (.dist12 xv) :=
  dCode_width (by decide) (extra_lt xv (by decide))

theorem EncodeWidth.dist13 (xv : BitVec 5) : EncodeWidth.Statement (.dist13 xv) :=
  dCode_width (by decide) (extra_lt xv (by decide))

theorem EncodeWidth.dist14 (xv : BitVec 6) : EncodeWidth.Statement (.dist14 xv) :=
  dCode_width (by decide) (extra_lt xv (by decide))

theorem EncodeWidth.dist15 (xv : BitVec 6) : EncodeWidth.Statement (.dist15 xv) :=
  dCode_width (by decide) (extra_lt xv (by decide))

theorem EncodeWidth.dist16 (xv : BitVec 7) : EncodeWidth.Statement (.dist16 xv) :=
  dCode_width (by decide) (extra_lt xv (by decide))

theorem EncodeWidth.dist17 (xv : BitVec 7) : EncodeWidth.Statement (.dist17 xv) :=
  dCode_width (by decide) (extra_lt xv (by decide))

theorem EncodeWidth.dist18 (xv : BitVec 8) : EncodeWidth.Statement (.dist18 xv) :=
  dCode_width (by decide) (extra_lt xv (by decide))

theorem EncodeWidth.dist19 (xv : BitVec 8) : EncodeWidth.Statement (.dist19 xv) :=
  dCode_width (by decide) (extra_lt xv (by decide))

theorem EncodeWidth.dist20 (xv : BitVec 9) : EncodeWidth.Statement (.dist20 xv) :=
  dCode_width (by decide) (extra_lt xv (by decide))

theorem EncodeWidth.dist21 (xv : BitVec 9) : EncodeWidth.Statement (.dist21 xv) :=
  dCode_width (by decide) (extra_lt xv (by decide))

theorem EncodeWidth.dist22 (xv : BitVec 10) : EncodeWidth.Statement (.dist22 xv) :=
  dCode_width (by decide) (extra_lt xv (by decide))

theorem EncodeWidth.dist23 (xv : BitVec 10) : EncodeWidth.Statement (.dist23 xv) :=
  dCode_width (by decide) (extra_lt xv (by decide))

theorem EncodeWidth.dist24 (xv : BitVec 11) : EncodeWidth.Statement (.dist24 xv) :=
  dCode_width (by decide) (extra_lt xv (by decide))

theorem EncodeWidth.dist25 (xv : BitVec 11) : EncodeWidth.Statement (.dist25 xv) :=
  dCode_width (by decide) (extra_lt xv (by decide))

theorem EncodeWidth.dist26 (xv : BitVec 12) : EncodeWidth.Statement (.dist26 xv) :=
  dCode_width (by decide) (extra_lt xv (by decide))

theorem EncodeWidth.dist27 (xv : BitVec 12) : EncodeWidth.Statement (.dist27 xv) :=
  dCode_width (by decide) (extra_lt xv (by decide))

theorem EncodeWidth.dist28 (xv : BitVec 13) : EncodeWidth.Statement (.dist28 xv) :=
  dCode_width (by decide) (extra_lt xv (by decide))

theorem EncodeWidth.dist29 (xv : BitVec 13) : EncodeWidth.Statement (.dist29 xv) :=
  dCode_width (by decide) (extra_lt xv (by decide))

theorem EncodeWidth.clLen0 : EncodeWidth.Statement (.clLen0) :=
  clCode_width (by decide) (by decide)

theorem EncodeWidth.clLen1 : EncodeWidth.Statement (.clLen1) :=
  clCode_width (by decide) (by decide)

theorem EncodeWidth.clLen2 : EncodeWidth.Statement (.clLen2) :=
  clCode_width (by decide) (by decide)

theorem EncodeWidth.clLen3 : EncodeWidth.Statement (.clLen3) :=
  clCode_width (by decide) (by decide)

theorem EncodeWidth.clLen4 : EncodeWidth.Statement (.clLen4) :=
  clCode_width (by decide) (by decide)

theorem EncodeWidth.clLen5 : EncodeWidth.Statement (.clLen5) :=
  clCode_width (by decide) (by decide)

theorem EncodeWidth.clLen6 : EncodeWidth.Statement (.clLen6) :=
  clCode_width (by decide) (by decide)

theorem EncodeWidth.clLen7 : EncodeWidth.Statement (.clLen7) :=
  clCode_width (by decide) (by decide)

theorem EncodeWidth.clLen8 : EncodeWidth.Statement (.clLen8) :=
  clCode_width (by decide) (by decide)

theorem EncodeWidth.clLen9 : EncodeWidth.Statement (.clLen9) :=
  clCode_width (by decide) (by decide)

theorem EncodeWidth.clLen10 : EncodeWidth.Statement (.clLen10) :=
  clCode_width (by decide) (by decide)

theorem EncodeWidth.clLen11 : EncodeWidth.Statement (.clLen11) :=
  clCode_width (by decide) (by decide)

theorem EncodeWidth.clLen12 : EncodeWidth.Statement (.clLen12) :=
  clCode_width (by decide) (by decide)

theorem EncodeWidth.clLen13 : EncodeWidth.Statement (.clLen13) :=
  clCode_width (by decide) (by decide)

theorem EncodeWidth.clLen14 : EncodeWidth.Statement (.clLen14) :=
  clCode_width (by decide) (by decide)

theorem EncodeWidth.clLen15 : EncodeWidth.Statement (.clLen15) :=
  clCode_width (by decide) (by decide)

theorem EncodeWidth.cl16 (xv : BitVec 2) : EncodeWidth.Statement (.cl16 xv) :=
  clCode_width (by decide) (extra_lt xv (by decide))

theorem EncodeWidth.cl17 (xv : BitVec 3) : EncodeWidth.Statement (.cl17 xv) :=
  clCode_width (by decide) (extra_lt xv (by decide))

theorem EncodeWidth.cl18 (xv : BitVec 7) : EncodeWidth.Statement (.cl18 xv) :=
  clCode_width (by decide) (extra_lt xv (by decide))

theorem EncodeWidth.blockFixed (bfinal : BitVec 1) : EncodeWidth.Statement (.blockFixed bfinal) :=
  bhCode_width (by decide) (extra_lt bfinal (by decide))

theorem EncodeWidth.blockDynamic (bfinal : BitVec 1) : EncodeWidth.Statement (.blockDynamic bfinal) :=
  bhCode_width (by decide) (extra_lt bfinal (by decide))

end Sys2Proof.Laws
end

