-- ==== Sys2Proof/Laws/Step.lean ====
section
/-! SUPPORT. What a step can do, said once: the turn it takes, every effect a command has, every effect
a stream element has, and every effect of the core agent's turn. Proofs about `step` start here. -/

namespace Sys2Proof.Machine

/-! ## The turn a step takes -/

theorem State.nextTurn_of_turns {s : State} {x : Turn} {rest : List Turn} (h : s.turns = x :: rest) :
    s.nextTurn = x := by unfold State.nextTurn; rw [h]; rfl

theorem State.takeTurn_of_turns {s : State} {x : Turn} {rest : List Turn} (h : s.turns = x :: rest) :
    s.takeTurn = { s with turns := rest } := by unfold State.takeTurn; rw [h]; rfl

/-- With no turns listed the core agent moves. -/
theorem State.nextTurn_of_nil {s : State} (h : s.turns = []) : s.nextTurn = .core := by
  unfold State.nextTurn; rw [h]; rfl

theorem step_cmd_ok {s : State} {w : CmdWord} {i : Instr} (h : s.nextTurn = .cmd w)
    (hi : decodeCmd w = .ok i) : step s = exec i s.takeTurn := by
  unfold step decodeCommand; rw [h]; simp only [hi]

theorem step_cmd_error {s : State} {w : CmdWord} {e : DecodeError} (h : s.nextTurn = .cmd w)
    (he : decodeCmd w = .error e) : step s = .next s.takeTurn.illegal := by
  unfold step decodeCommand; rw [h]; simp only [he]

theorem step_core {s : State} (h : s.nextTurn = .core) : step s = s.takeTurn.coreTurn := by
  unfold step; rw [h]

theorem step_rst {s : State} (h : s.nextTurn = .rst) : step s = .next s.takeTurn.doReset := by
  unfold step; rw [h]

theorem step_elem_ok {s : State} {c : Code} {i : Instr} (h : s.nextTurn = .elem c)
    (hi : decodeElement c = .ok i) : step s = exec i s.takeTurn := by
  unfold step; rw [h]; simp only [hi]

theorem step_elem_error {s : State} {c : Code} {e : DecodeError} (h : s.nextTurn = .elem c)
    (he : decodeElement c = .error e) : step s = .refused (.noElement e) := by
  unfold step; rw [h]; simp only [he]

/-! ## Commands -/

/-- Which words decode, and to what: the opcode map (R91), by numbers. -/
inductive CommandWord : Nat → Instr → Prop where
  | nop : CommandWord 0 .nop
  | push (b : BitVec 8) : CommandWord (4096 + b.toNat) (.push b)
  | eoi : CommandWord 8192 .eoi
  | pop : CommandWord 12288 .pop
  | readReg (b : BitVec 8) : CommandWord (16384 + b.toNat) (.readReg b)
  | abort : CommandWord 20480 .abort
  | reservedOpc6 (a : BitVec 12) : CommandWord (24576 + a.toNat) (.reservedOpc6 a)
  | reservedOpc7 (a : BitVec 12) : CommandWord (28672 + a.toNat) (.reservedOpc7 a)
  | reservedOpc8 (a : BitVec 12) : CommandWord (32768 + a.toNat) (.reservedOpc8 a)
  | reservedOpc9 (a : BitVec 12) : CommandWord (36864 + a.toNat) (.reservedOpc9 a)
  | reservedOpcA (a : BitVec 12) : CommandWord (40960 + a.toNat) (.reservedOpcA a)
  | reservedOpcB (a : BitVec 12) : CommandWord (45056 + a.toNat) (.reservedOpcB a)
  | reservedOpcC (a : BitVec 12) : CommandWord (49152 + a.toNat) (.reservedOpcC a)
  | reservedOpcD (a : BitVec 12) : CommandWord (53248 + a.toNat) (.reservedOpcD a)
  | reservedOpcE (a : BitVec 12) : CommandWord (57344 + a.toNat) (.reservedOpcE a)
  | softReset : CommandWord 61440 .softReset

theorem CommandWord.of_eq {n m : Nat} {i : Instr} (h : CommandWord m i) (e : n = m) :
    CommandWord n i := e ▸ h

theorem decodeOpcode_word {opc arg : Nat} {i : Instr} (ha : arg < 256)
    (h : decodeOpcode opc arg = .ok i) : CommandWord (opc * 4096 + arg) i := by
  unfold decodeOpcode noArg at h
  have hb : (BitVec.ofNat 8 arg).toNat = arg := by
    rw [BitVec.toNat_ofNat]; exact Nat.mod_eq_of_lt ha
  split at h
  · split at h <;> simp at h
    subst h; exact CommandWord.nop.of_eq (by omega)
  · simp at h; subst h; exact (CommandWord.push _).of_eq (by omega)
  · split at h <;> simp at h
    subst h; exact CommandWord.eoi.of_eq (by omega)
  · split at h <;> simp at h
    subst h; exact CommandWord.pop.of_eq (by omega)
  · simp at h; subst h; exact (CommandWord.readReg _).of_eq (by omega)
  · split at h <;> simp at h
    subst h; exact CommandWord.abort.of_eq (by omega)
  · split at h <;> simp at h
    subst h; exact CommandWord.softReset.of_eq (by omega)
  · simp at h

/-- A word that decodes is the word the opcode map gives its instruction. -/
theorem decodeCmd_word {w : CmdWord} {i : Instr} (h : decodeCmd w = .ok i) :
    CommandWord w.toNat i := by
  have hb : ∀ n : Nat, (BitVec.ofNat 12 (n % 4096)).toNat = n % 4096 := by
    intro n; rw [BitVec.toNat_ofNat]; exact Nat.mod_eq_of_lt (Nat.mod_lt _ (by decide))
  have hw := hb w.toNat
  unfold decodeCmd at h
  simp only at h
  split at h
  · simp at h; subst h; exact (CommandWord.reservedOpc6 _).of_eq (by omega)
  · simp at h; subst h; exact (CommandWord.reservedOpc7 _).of_eq (by omega)
  · simp at h; subst h; exact (CommandWord.reservedOpc8 _).of_eq (by omega)
  · simp at h; subst h; exact (CommandWord.reservedOpc9 _).of_eq (by omega)
  · simp at h; subst h; exact (CommandWord.reservedOpcA _).of_eq (by omega)
  · simp at h; subst h; exact (CommandWord.reservedOpcB _).of_eq (by omega)
  · simp at h; subst h; exact (CommandWord.reservedOpcC _).of_eq (by omega)
  · simp at h; subst h; exact (CommandWord.reservedOpcD _).of_eq (by omega)
  · simp at h; subst h; exact (CommandWord.reservedOpcE _).of_eq (by omega)
  · split at h
    · exact (decodeOpcode_word (Nat.mod_lt _ (by decide)) h).of_eq (by omega)
    · simp at h

/-- Everything a command word can do to the state it meets (R302 to R309). -/
inductive CommandEffect (w : CmdWord) (s : State) : State → Prop where
  /-- The state stays, and the command responds `v`. -/
  | respond (v : Word) : CommandEffect w s (s.respond v)
  /-- The command faults; the core was not in `FAULT`. -/
  | fault (c : FaultCode) (h : s.phase ≠ .fault) : CommandEffect w s (s.raiseHost c)
  /-- An accepted PUSH. -/
  | accept (b : Byte) (hw : w.toNat = 4096 + b.toNat) (hp : s.phase ≠ .fault) (he : s.eoi = false)
      (hl : s.avail < Config.laCap) (hr : s.r + 1 ≠ 2 ^ Config.posWidth) :
      CommandEffect w s (s.acceptByte b)
  /-- An EOI that takes effect. -/
  | ended (hp : s.phase ≠ .fault) (he : s.eoi = false) :
      CommandEffect w s ({ s with eoi := true }.respond 0)
  /-- A POP that takes an entry. -/
  | popped (e : OutEntry) (rest : List OutEntry) (hw : w.toNat = 12288) (h : s.oq = e :: rest) :
      CommandEffect w s ({ s with oq := rest }.respond (popResponse e))
  /-- SOFT_RESET. -/
  | reset (hw : w = 0xF000) : CommandEffect w s (s.doReset.respond 0)

theorem State.illegal_effect (w : CmdWord) (s : State) : CommandEffect w s s.illegal := by
  unfold State.illegal
  split
  · exact .respond 0
  · exact .fault _ ‹_›

theorem execPush_effect {w : CmdWord} {b : Byte} {s t : State} (hw : w.toNat = 4096 + b.toNat)
    (h : execPush b s = .next t) : CommandEffect w s t := by
  unfold execPush at h
  split at h
  · rw [← Host.Outcome.next.inj h]; exact .respond 0
  · rename_i hp
    split at h
    · rw [← Host.Outcome.next.inj h]; exact .fault _ hp
    · rename_i he
      split at h
      · rw [← Host.Outcome.next.inj h]; exact .respond 0
      · rename_i hl
        split at h
        · rw [← Host.Outcome.next.inj h]; exact .fault _ hp
        · rename_i hr
          rw [← Host.Outcome.next.inj h]
          refine .accept b hw hp (by simpa using he) ?_ ?_
          · exact (lookaheadFull_false_iff _).1 (by simpa using hl)
          · exact fun h => hr ((positionLimit_iff _).2 h)

theorem execEoi_effect {w : CmdWord} {s t : State} (h : execEoi s = .next t) :
    CommandEffect w s t := by
  unfold execEoi at h
  split at h
  · rw [← Host.Outcome.next.inj h]; exact .respond 0
  · rename_i hp
    split at h
    · rw [← Host.Outcome.next.inj h]; exact .fault _ hp
    · rename_i he
      rw [← Host.Outcome.next.inj h]; exact .ended hp (by simpa using he)

theorem execPop_effect {w : CmdWord} {s t : State} (hw : w.toNat = 12288)
    (h : execPop s = .next t) : CommandEffect w s t := by
  unfold execPop at h
  split at h
  · rw [← Host.Outcome.next.inj h]; exact .respond 0
  · rw [← Host.Outcome.next.inj h]; exact .popped _ _ hw ‹_›

theorem execAbort_effect {w : CmdWord} {s t : State} (h : execAbort s = .next t) :
    CommandEffect w s t := by
  unfold execAbort at h
  split at h
  · rw [← Host.Outcome.next.inj h]; exact .respond 0
  · rw [← Host.Outcome.next.inj h]; exact .fault _ ‹_›

/-- Everything a command's turn can do. -/
theorem step_cmd_effect {s t : State} {w : CmdWord} (hx : s.nextTurn = .cmd w)
    (h : step s = .next t) : CommandEffect w s.takeTurn t := by
  cases hd : decodeCmd w with
  | error e =>
    rw [step_cmd_error hx hd] at h
    rw [← Host.Outcome.next.inj h]; exact State.illegal_effect w _
  | ok i =>
    rw [step_cmd_ok hx hd] at h
    have hw := decodeCmd_word hd
    generalize hn : w.toNat = n at hw
    cases hw with
    | nop => rw [← Host.Outcome.next.inj h]; exact .respond 0
    | push b => exact execPush_effect hn h
    | eoi => exact execEoi_effect h
    | pop => exact execPop_effect hn h
    | readReg b => rw [← Host.Outcome.next.inj h]; exact .respond _
    | abort => exact execAbort_effect h
    | softReset =>
      rw [← Host.Outcome.next.inj h]
      exact .reset (BitVec.eq_of_toNat_eq (by simpa using hn))
    | _ => rw [← Host.Outcome.next.inj h]; exact State.illegal_effect w _

/-! ## Elements -/

/-- Everything a stream element can do to the state it meets (R242, R251, R252): append bits, write a
block, or stop at the fault of a dynamic block's tables. -/
inductive ElementEffect (s : State) : State → Prop where
  | bits (l : List Bool) : ElementEffect s (s.appendBits l)
  | fixedBlock (f : BitVec 1) : ElementEffect s (s.writeFixedBlock f)
  | dynamicBlock (f : BitVec 1) (w : Work) (h : buildDynamicTables s.freqLL s.freqD = .ok w) :
      ElementEffect s (s.writeDynamicWith f w)
  | fault (c : FaultCode) (h : buildDynamicTables s.freqLL s.freqD = .error c) :
      ElementEffect s (s.raise c)

theorem execBlockDynamic_effect {f : BitVec 1} {s t : State} (h : execBlockDynamic f s = .next t) :
    ElementEffect s t := by
  unfold execBlockDynamic State.writeDynamicBlock at h
  cases hb : buildDynamicTables s.freqLL s.freqD with
  | error c => rw [hb] at h; rw [← Host.Outcome.next.inj h]; exact .fault c hb
  | ok w => rw [hb] at h; rw [← Host.Outcome.next.inj h]; exact .dynamicBlock f w hb

/-- The instructions of the output stream (R97 to R106). -/
def Instr.isElement : Instr → Bool
  | .nop => false
  | .push _ => false
  | .eoi => false
  | .pop => false
  | .readReg _ => false
  | .abort => false
  | .reservedOpc6 _ => false
  | .reservedOpc7 _ => false
  | .reservedOpc8 _ => false
  | .reservedOpc9 _ => false
  | .reservedOpcA _ => false
  | .reservedOpcB _ => false
  | .reservedOpcC _ => false
  | .reservedOpcD _ => false
  | .reservedOpcE _ => false
  | .softReset => false
  | _ => true

theorem noExtra_ok {xv : Nat} {i j : Instr} (h : noExtra xv i = .ok j) : j = i := by
  unfold noExtra at h
  split at h
  · simpa using h.symm
  · simp at h

theorem withExtra_ok {n xv : Nat} {mk : BitVec n → Instr} {j : Instr} (h : withExtra n xv mk = .ok j) :
    j = mk (BitVec.ofNat n xv) := by
  unfold withExtra at h
  split at h
  · simpa using h.symm
  · simp at h

theorem decodeLL_isElement {sym xv : Nat} {i : Instr} (h : decodeLL sym xv = .ok i) :
    Instr.isElement i = true := by
  unfold decodeLL at h
  split at h
  · rw [noExtra_ok h]; rfl
  · split at h <;>
      first
      | (rw [noExtra_ok h]; rfl)
      | (rw [withExtra_ok h]; rfl)
      | (split at h <;> first | (rw [withExtra_ok h]; rfl) | simp at h)
      | simp at h

theorem decodeD_isElement {sym xv : Nat} {i : Instr} (h : decodeD sym xv = .ok i) :
    Instr.isElement i = true := by
  unfold decodeD at h
  split at h <;> first | (rw [noExtra_ok h]; rfl) | (rw [withExtra_ok h]; rfl) | simp at h

theorem decodeCL_isElement {sym xv : Nat} {i : Instr} (h : decodeCL sym xv = .ok i) :
    Instr.isElement i = true := by
  unfold decodeCL at h
  split at h <;> first | (rw [noExtra_ok h]; rfl) | (rw [withExtra_ok h]; rfl) | simp at h

theorem decodeBH_isElement {b f : Nat} {i : Instr} (h : decodeBH b f = .ok i) :
    Instr.isElement i = true := by
  unfold decodeBH at h
  split at h
  · rw [← Except.ok.inj h]; rfl
  · rw [← Except.ok.inj h]; rfl
  · simp at h

/-- A word taken as an element decodes to an element. -/
theorem decodeElement_isElement {c : Code} {i : Instr} (h : decodeElement c = .ok i) :
    Instr.isElement i = true := by
  unfold decodeElement at h
  split at h
  · simp at h
  · rename_i hf
    unfold decode at h
    simp only [hf] at h
    exact decodeLL_isElement h
  · rename_i hf
    unfold decode at h
    simp only [hf] at h
    exact decodeD_isElement h
  · rename_i hf
    unfold decode at h
    simp only [hf] at h
    exact decodeCL_isElement h
  · rename_i hf
    unfold decode at h
    simp only [hf] at h
    split at h
    · exact decodeBH_isElement h
    · simp at h

/-- Everything an element's meaning can do. -/
theorem exec_element_effect {i : Instr} {s t : State} (hi : Instr.isElement i = true)
    (h : exec i s = .next t) : ElementEffect s t := by
  cases i with
  | blockFixed f => rw [← Host.Outcome.next.inj h]; exact .fixedBlock f
  | blockDynamic f => exact execBlockDynamic_effect h
  | nop | push _ | eoi | pop | readReg _ | abort | softReset => simp [Instr.isElement] at hi
  | reservedOpc6 _ | reservedOpc7 _ | reservedOpc8 _ | reservedOpc9 _ | reservedOpcA _
  | reservedOpcB _ | reservedOpcC _ | reservedOpcD _ | reservedOpcE _ =>
    simp [Instr.isElement] at hi
  | _ => rw [← Host.Outcome.next.inj h]; exact .bits _

/-! ## The core agent's turn -/

theorem State.coreTurn_encode {s : State} (h : s.enabledStep = some .encodeStep) :
    s.coreTurn = s.encodeStep := by unfold State.coreTurn; rw [h]

theorem State.coreTurn_flush {s : State} (h : s.enabledStep = some .flush) :
    s.coreTurn = .next s.flushStep := by unfold State.coreTurn; rw [h]

theorem State.coreTurn_drain {s : State} (h : s.enabledStep = some .drainByte) :
    s.coreTurn = .next s.drainStep := by unfold State.coreTurn; rw [h]

theorem State.coreTurn_finish {s : State} (h : s.enabledStep = some .finish) :
    s.coreTurn = .next s.finishStep := by unfold State.coreTurn; rw [h]

theorem State.coreTurn_stalled {s : State} (h : s.enabledStep = none) : s.coreTurn = .next s := by
  unfold State.coreTurn; rw [h]

/-- When each step is enabled (R280), in one line each. -/
theorem State.enabledStep_cases (s : State) :
    (s.enabledStep = some .encodeStep ∧ s.phase = .encode ∧ s.p < s.r ∧
      (s.eoi = true ∨ 260 ≤ s.avail)) ∨
    (s.enabledStep = some .finish ∧ s.phase = .encode ∧ s.eoi = true ∧ s.p = s.r) ∨
    (s.enabledStep = some .flush ∧ s.phase = .flush) ∨
    (s.enabledStep = some .drainByte ∧ (s.phase = .drain ∨ s.phase = .drainFinal) ∧
      8 ≤ s.bitq.length ∧ s.oq.length < Config.oqDepth) ∨
    s.enabledStep = none := by
  unfold State.enabledStep
  cases hp : s.phase with
  | encode =>
    simp only
    by_cases h1 : s.p < s.r ∧ (s.eoi = true ∨ Config.lookaheadMin ≤ s.avail)
    · rw [if_pos h1]; exact .inl ⟨rfl, trivial, h1.1, h1.2⟩
    · rw [if_neg h1]
      by_cases h2 : s.eoi = true ∧ s.p = s.r
      · rw [if_pos h2]; exact .inr (.inl ⟨rfl, trivial, h2.1, h2.2⟩)
      · rw [if_neg h2]; exact .inr (.inr (.inr (.inr rfl)))
  | flush => exact .inr (.inr (.inl ⟨rfl, rfl⟩))
  | drain =>
    simp only
    by_cases h : 8 ≤ s.bitq.length ∧ oqFull s.oq.length = false
    · rw [if_pos h]
      exact .inr (.inr (.inr (.inl ⟨rfl, .inl trivial, h.1, (oqFull_false_iff _).1 h.2⟩)))
    · rw [if_neg h]; exact .inr (.inr (.inr (.inr rfl)))
  | drainFinal =>
    simp only
    by_cases h : 8 ≤ s.bitq.length ∧ oqFull s.oq.length = false
    · rw [if_pos h]
      exact .inr (.inr (.inr (.inl ⟨rfl, .inr trivial, h.1, (oqFull_false_iff _).1 h.2⟩)))
    · rw [if_neg h]; exact .inr (.inr (.inr (.inr rfl)))
  | done => exact .inr (.inr (.inr (.inr rfl)))
  | fault => exact .inr (.inr (.inr (.inr rfl)))

/-- Everything the core agent's turn can do when it answers a next state. -/
inductive CoreEffect (s : State) : State → Prop where
  | stall (h : s.enabledStep = none) : CoreEffect s s
  | encode (t : State) (h : s.enabledStep = some .encodeStep) (ht : s.encodeStep = .next t) :
      CoreEffect s t
  | flush (h : s.enabledStep = some .flush) : CoreEffect s s.flushStep
  | drain (h : s.enabledStep = some .drainByte) : CoreEffect s s.drainStep
  | finish (h : s.enabledStep = some .finish) : CoreEffect s s.finishStep

theorem State.coreTurn_effect {s t : State} (h : s.coreTurn = .next t) : CoreEffect s t := by
  unfold State.coreTurn at h
  split at h
  · exact .encode t ‹_› h
  · rw [← Host.Outcome.next.inj h]; exact .flush ‹_›
  · rw [← Host.Outcome.next.inj h]; exact .drain ‹_›
  · rw [← Host.Outcome.next.inj h]; exact .finish ‹_›
  · rw [← Host.Outcome.next.inj h]; exact .stall ‹_›

/-- What no core step changes: the input it has accepted, with its counters, and the turns to come. -/
structure SameInput (s t : State) : Prop where
  r : t.r = s.r
  eoi : t.eoi = s.eoi
  crc : t.crc = s.crc
  isize : t.isize = s.isize
  turns : t.turns = s.turns

theorem State.consumeN_sameInput {n : Nat} {s t : State} (h : State.consumeN n s = some t) :
    SameInput s t.flushTrigger := by
  rw [State.flushTrigger_eq, State.consumeN_frame h]
  exact ⟨rfl, rfl, rfl, rfl, rfl⟩

/-- A core step leaves the input and the turns alone (R23, R24, R378). -/
theorem CoreEffect.sameInput {s t : State} (h : CoreEffect s t) : SameInput s t := by
  cases h with
  | stall _ => exact ⟨rfl, rfl, rfl, rfl, rfl⟩
  | encode _ _ ht =>
    obtain ⟨c, -, ⟨-, rfl⟩ | ⟨-, -, l, d, u, -, -, hu, rfl⟩ | ⟨-, -, b, u, -, hu, rfl⟩⟩ :=
      State.encodeStep_cases ht
    · exact ⟨rfl, rfl, rfl, rfl, rfl⟩
    · obtain ⟨h1, h2, h3, h4, h5⟩ := State.consumeN_sameInput hu
      exact ⟨h1, h2, h3, h4, h5⟩
    · obtain ⟨h1, h2, h3, h4, h5⟩ := State.consumeN_sameInput hu
      exact ⟨h1, h2, h3, h4, h5⟩
  | flush _ =>
    rcases State.flushStep_cases s with ⟨c, -, h⟩ | ⟨w, -, h⟩ <;> rw [h] <;> constructor <;> simp
  | drain _ => exact ⟨rfl, rfl, rfl, rfl, rfl⟩
  | finish _ =>
    rcases State.finishStep_cases s with ⟨-, h⟩ | ⟨-, ⟨c, -, h⟩ | ⟨w, -, h⟩⟩ <;> rw [h] <;>
      constructor <;> simp

/-! ## Every step -/

/-- Everything a step can do: the first turn is taken, and the state it leaves sees that turn's
effect. -/
inductive StepEffect (s : State) : State → Prop where
  | command (w : CmdWord) (hx : s.nextTurn = .cmd w) (t : State) (h : CommandEffect w s.takeTurn t) :
      StepEffect s t
  | core (hx : s.nextTurn = .core) (t : State) (h : CoreEffect s.takeTurn t) : StepEffect s t
  | rst (hx : s.nextTurn = .rst) : StepEffect s s.takeTurn.doReset
  | element (c : Code) (hx : s.nextTurn = .elem c) (i : Instr) (hi : decodeElement c = .ok i) (t : State)
      (h : ElementEffect s.takeTurn t) : StepEffect s t

theorem step_effect {s t : State} (h : step s = .next t) : StepEffect s t := by
  cases hx : s.nextTurn with
  | cmd w => exact .command w hx t (step_cmd_effect hx h)
  | core => rw [step_core hx] at h; exact .core hx t (State.coreTurn_effect h)
  | rst => rw [step_rst hx] at h; rw [← Host.Outcome.next.inj h]; exact .rst hx
  | elem c =>
    cases hd : decodeElement c with
    | error e => rw [step_elem_error hx hd] at h; simp at h
    | ok i =>
      rw [step_elem_ok hx hd] at h
      exact .element c hx i hd t (exec_element_effect (decodeElement_isElement hd) h)

/-- No step lists a turn: the turns left are those listed after the one it took. -/
theorem CommandEffect.turns {w : CmdWord} {s t : State} (h : CommandEffect w s t) :
    t.turns = s.turns := by cases h <;> rfl

theorem ElementEffect.turns {s t : State} (h : ElementEffect s t) : t.turns = s.turns := by
  cases h <;> rfl

end Sys2Proof.Machine
end

