-- ==== Sys2Proof/Laws/Stream.lean ====
section
/-! SUPPORT. The host's pseudo-commands (R96): what one issued command meets, what a PUSH's response
says, and that PUSHB and a complete run account for every byte. -/

namespace Sys2Proof.Machine

@[simp] theorem State.plan_r (s : State) (g : Nat) (i : Instr) : (s.plan g i).r = s.r := rfl
@[simp] theorem State.plan_turns (s : State) (g : Nat) (i : Instr) :
    (s.plan g i).turns = coreTurns g ++ [commandTurn i] := rfl

/-- An `andThen` that answers went through a next state. -/
theorem andThen_next {α β : Type} {o : Host.Outcome α Fault Refusal}
    {f : α → Host.Outcome β Fault Refusal} {b : β} (h : andThen o f = .next b) :
    ∃ a, o = .next a ∧ f a = .next b := by
  cases o with
  | next a => exact ⟨a, rfl, h⟩
  | fault e => simp [andThen] at h
  | refused e => simp [andThen] at h

theorem run_succ_next {n : Nat} {s t : State} (h : Host.Core.run Sys2Proof.core (n + 1) s = .next t) :
    ∃ a, step s = .next a ∧ Host.Core.run Sys2Proof.core n a = .next t := by
  cases hs : step s with
  | next a => exact ⟨a, rfl, by simpa [Host.Core.run, Sys2Proof.core, hs] using h⟩
  | fault e => simp [Host.Core.run, Sys2Proof.core, hs] at h
  | refused e => simp [Host.Core.run, Sys2Proof.core, hs] at h

/-- Core turns and then one turn: the last turn is taken from a state with the same input. -/
theorem run_coreTurns_next {x : Turn} {g : Nat} {s t : State} (hs : s.turns = coreTurns g ++ [x])
    (h : Host.Core.run Sys2Proof.core (g + 1) s = .next t) :
    ∃ c, c.turns = [x] ∧ c.r = s.r ∧ c.eoi = s.eoi ∧ step c = .next t := by
  induction g generalizing s with
  | zero =>
    obtain ⟨a, ha, hr⟩ := run_succ_next h
    have hat : a = t := Host.Outcome.next.inj hr
    exact ⟨s, by simpa [coreTurns] using hs, rfl, rfl, hat ▸ ha⟩
  | succ g ih =>
    obtain ⟨a, ha, hr⟩ := run_succ_next h
    have hcons : s.turns = .core :: (coreTurns g ++ [x]) := hs
    rw [step_core (State.nextTurn_of_turns hcons), State.takeTurn_of_turns hcons] at ha
    have hin := (State.coreTurn_effect ha).sameInput
    obtain ⟨c, h1, h2, h3, h4⟩ := ih hin.turns hr
    exact ⟨c, h1, h2.trans hin.r, h3.trans hin.eoi, h4⟩

/-- A command that leaves `R` alone does so when it is issued, whatever the core did before it. -/
theorem issue_keeps_r {g : Nat} {i : Instr} {w : CmdWord} {s t : State} (hw : commandTurn i = .cmd w)
    (hd : decodeCmd w = .ok i) (hk : ∀ c u : State, exec i c = .next u → u.r = c.r)
    (h : issue g i s = .next t) : t.r = s.r := by
  obtain ⟨c, hc, hr, -, hstep⟩ := run_coreTurns_next (State.plan_turns s g i) h
  rw [hw] at hc
  rw [step_cmd_ok (State.nextTurn_of_turns hc) hd] at hstep
  simpa [hr] using hk _ _ hstep

theorem issue_pop_r {g : Nat} {s t : State} (h : issue g .pop s = .next t) : t.r = s.r := by
  refine issue_keeps_r (w := 0x3000) (by decide) (by decide) (fun c u hu => ?_) h
  have he : execPop c = .next u := hu
  unfold execPop at he
  split at he <;> rw [← Host.Outcome.next.inj he] <;> rfl

theorem popBytes_r {gaps : List Nat} {s t : State} {l : List Byte}
    (h : popBytes gaps s = .next (t, l)) : t.r = s.r := by
  induction gaps generalizing s l with
  | nil => simp [popBytes] at h; rw [h.1]
  | cons g gaps ih =>
    obtain ⟨a, ha, hrest⟩ := andThen_next h
    obtain ⟨⟨u, l'⟩, hu, he⟩ := andThen_next hrest
    have hut : u = t := by simp at he; exact he.1
    subst hut
    rw [ih hu, issue_pop_r ha]

theorem decodeCmd_push (b : Byte) :
    decodeCmd ((encode (.push b)).bits.setWidth 16) = .ok (.push b) := by
  revert b; decide

/-- `ACCEPTED` says whether the PUSH took effect: 1 when `R` went up by 1, 0 when it did not (R303). -/
theorem execPush_accepted {b : Byte} {s t : State} (h : execPush b s = .next t) :
    (t.accepted = true ∧ t.r = s.r + 1) ∨ (t.accepted = false ∧ t.r = s.r) := by
  unfold execPush at h
  split at h
  · rw [← Host.Outcome.next.inj h]; exact .inr ⟨by simp [State.accepted], by simp⟩
  · split at h
    · rw [← Host.Outcome.next.inj h]; exact .inr ⟨by simp [State.accepted], by simp⟩
    · split at h
      · rw [← Host.Outcome.next.inj h]; exact .inr ⟨by simp [State.accepted], by simp⟩
      · split at h
        · rw [← Host.Outcome.next.inj h]; exact .inr ⟨by simp [State.accepted], by simp⟩
        · rw [← Host.Outcome.next.inj h]; exact .inl ⟨by simp [State.accepted], by simp⟩

/-- An issued PUSH, whatever the core did before it. -/
theorem issue_push {g : Nat} {b : Byte} {s t : State} (h : issue g (.push b) s = .next t) :
    (t.accepted = true ∧ t.r = s.r + 1) ∨ (t.accepted = false ∧ t.r = s.r) := by
  obtain ⟨c, hc, hr, -, hstep⟩ := run_coreTurns_next (State.plan_turns s g (.push b)) h
  rw [step_cmd_ok (State.nextTurn_of_turns hc) (decodeCmd_push b)] at hstep
  have := execPush_accepted hstep
  simpa [hr] using this

/-- PUSHB accounts for every byte, in order (R96): those no longer to be pushed are a first part of
the list, and `R` counts each of them once. -/
theorem pushBytes_accounts {gaps : List Nat} {s t : State} {bytes left : List Byte}
    (h : pushBytes gaps s bytes = .next (t, left)) :
    ∃ pushed, bytes = pushed ++ left ∧ t.r = s.r + pushed.length := by
  induction gaps generalizing s bytes with
  | nil =>
    cases bytes with
    | nil => simp [pushBytes] at h; exact ⟨[], by simp [h.2], by simp [h.1]⟩
    | cons b rest => simp [pushBytes] at h; exact ⟨[], by simp [h.2], by simp [h.1]⟩
  | cons g gaps ih =>
    cases bytes with
    | nil => simp [pushBytes] at h; exact ⟨[], by simp [h.2], by simp [h.1]⟩
    | cons b rest =>
      obtain ⟨a, ha, hrest⟩ := andThen_next h
      rcases issue_push ha with ⟨hacc, hr⟩ | ⟨hacc, hr⟩ <;> rw [hacc] at hrest
      · obtain ⟨pushed, h1, h2⟩ := ih (bytes := rest) (by simpa using hrest)
        exact ⟨b :: pushed, by simp [h1], by simp [h2, hr]; omega⟩
      · obtain ⟨pushed, h1, h2⟩ := ih (bytes := b :: rest) (by simpa using hrest)
        exact ⟨pushed, h1, by rw [h2, hr]⟩

/-- The feeding of a complete run accounts for every byte as PUSHB does (R374). -/
theorem feedInput_accounts {tries : List PushTry} {s t : State} {bytes got left : List Byte}
    (h : feedInput tries s bytes = .next (t, got, left)) :
    ∃ pushed, bytes = pushed ++ left ∧ t.r = s.r + pushed.length := by
  induction tries generalizing s bytes got with
  | nil => cases bytes <;> simp [feedInput] at h <;> exact ⟨[], by simp [h.2], by simp [h.1]⟩
  | cons x tries ih =>
    cases bytes with
    | nil => simp [feedInput] at h; exact ⟨[], by simp [h.2], by simp [h.1]⟩
    | cons b rest =>
      obtain ⟨a, ha, hrest⟩ := andThen_next h
      rcases issue_push ha with ⟨hacc, hr⟩ | ⟨hacc, hr⟩ <;> rw [hacc] at hrest
      · obtain ⟨pushed, h1, h2⟩ := ih (by simpa using hrest)
        exact ⟨b :: pushed, by simp [h1], by simp [h2, hr]; omega⟩
      · obtain ⟨⟨c, early⟩, hc, hrest⟩ := andThen_next (by simpa using hrest)
        obtain ⟨⟨u, l, left'⟩, hu, he⟩ := andThen_next hrest
        simp at he
        obtain ⟨rfl, -, rfl⟩ := he
        obtain ⟨pushed, h1, h2⟩ := ih hu
        exact ⟨pushed, h1, by rw [h2, popBytes_r hc, hr]⟩

/-- DRAIN pops at most one byte for each gap (R96). -/
theorem drainOutput_length {gaps : List Nat} {s t : State} {l : List Byte}
    (h : drainOutput gaps s = .next (t, l)) : l.length ≤ gaps.length := by
  have hp : ∀ a : State, a.poppedByte.length ≤ 1 := by
    intro a; unfold State.poppedByte; split <;> simp
  induction gaps generalizing s t l with
  | nil => simp [drainOutput] at h; simp [← h.2]
  | cons g gaps ih =>
    obtain ⟨a, -, hrest⟩ := andThen_next h
    have ha := hp a
    split at hrest
    · have : a.poppedByte = l := by simp at hrest; exact hrest.2
      subst this; simp; omega
    · obtain ⟨⟨u, l'⟩, hu, he⟩ := andThen_next hrest
      have := ih hu
      have hl : a.poppedByte ++ l' = l := by simp at he; exact he.2
      subst hl; simp; omega

end Sys2Proof.Machine
end

