-- ==== Sys2Proof/Tests/Slice0.lean ====
section
/-! SUPPORT. The model's own tests: expected values from `spec/95_test_vectors.md` and the rules' worked
examples, and for each obligation with hypotheses a witness that meets them. -/

namespace Sys2Proof.Tests

open Sys2Proof.Machine

/-! ## Well-formedness and decoding -/

/-- Symbol 284 with extra value 31 is no well-formed instruction (R141), and no word decodes to it. -/
theorem test_wf_refuses_len284_31 : (Instr.len284 31).wf = false := by decide

theorem test_decode_refuses_len284_31 :
    decode ⟨.ll9, 0b11111_100011100⟩ = .error .extraOutOfRange := by decide

/-- The words no row has: unused symbols, extra values out of range, stray bits (R94, R99, R101 to
R104). -/
theorem test_decode_refuses :
    decode ⟨.ll9, 286⟩ = .error .unusedSymbol ∧ decode ⟨.ll9, 0b1_001100001⟩ = .error .extraOutOfRange ∧
    decode ⟨.d5, 30⟩ = .error .unusedSymbol ∧ decode ⟨.d5, 0b1_00000⟩ = .error .extraOutOfRange ∧
    decode ⟨.cl5, 19⟩ = .error .unusedSymbol ∧ decode ⟨.bh3, 0b11_0⟩ = .error .unusedSymbol ∧
    decode ⟨.bh3, 0b1000⟩ = .error .strayBits ∧ decode ⟨.cmd16, 0x10000⟩ = .error .strayBits ∧
    decode ⟨.cmd16, 0x5001⟩ = .error .illegalCommandWord := by decide

/-- Every command, its word written out as `OPC`, `RSV`, `ARG` (R90, R91). -/
def commandWords : List (Code × Instr) :=
  [(⟨.cmd16, 0b0000_0000_00000000⟩, .nop), (⟨.cmd16, 0b0001_0000_01000001⟩, .push 0x41),
   (⟨.cmd16, 0b0010_0000_00000000⟩, .eoi), (⟨.cmd16, 0b0011_0000_00000000⟩, .pop),
   (⟨.cmd16, 0b0100_0000_00000110⟩, .readReg 6), (⟨.cmd16, 0b0101_0000_00000000⟩, .abort),
   (⟨.cmd16, 0b0110_0010_10000001⟩, .reservedOpc6 0x281),
   (⟨.cmd16, 0b0111_0010_10000001⟩, .reservedOpc7 0x281),
   (⟨.cmd16, 0b1000_0010_10000001⟩, .reservedOpc8 0x281),
   (⟨.cmd16, 0b1001_0010_10000001⟩, .reservedOpc9 0x281),
   (⟨.cmd16, 0b1010_0010_10000001⟩, .reservedOpcA 0x281),
   (⟨.cmd16, 0b1011_0010_10000001⟩, .reservedOpcB 0x281),
   (⟨.cmd16, 0b1100_0010_10000001⟩, .reservedOpcC 0x281),
   (⟨.cmd16, 0b1101_0010_10000001⟩, .reservedOpcD 0x281),
   (⟨.cmd16, 0b1110_0010_10000001⟩, .reservedOpcE 0x281),
   (⟨.cmd16, 0b1111_0000_00000000⟩, .softReset)]

theorem test_decode_command : ∀ e ∈ commandWords, decode e.1 = .ok e.2 := by decide

/-- Literals and end of block: the 9-bit symbol id (R102). -/
def literalWords : List (Code × Instr) :=
  [(⟨.ll9, 0b001100001⟩, .lit 97), (⟨.ll9, 0b011111111⟩, .lit 255),
   (⟨.ll9, 0b100000000⟩, .eob)]

theorem test_decode_literal : ∀ e ∈ literalWords, decode e.1 = .ok e.2 := by decide

/-- Every length symbol: its extra value above the 9-bit symbol id (R102, R104; log 6). -/
def lengthWords : List (Code × Instr) :=
  [(⟨.ll9, 0b100000001⟩, .len257), (⟨.ll9, 0b100000010⟩, .len258),
   (⟨.ll9, 0b100000011⟩, .len259), (⟨.ll9, 0b100000100⟩, .len260),
   (⟨.ll9, 0b100000101⟩, .len261), (⟨.ll9, 0b100000110⟩, .len262),
   (⟨.ll9, 0b100000111⟩, .len263), (⟨.ll9, 0b100001000⟩, .len264),
   (⟨.ll9, 0b1_100001001⟩, .len265 1), (⟨.ll9, 0b1_100001010⟩, .len266 1),
   (⟨.ll9, 0b1_100001011⟩, .len267 1), (⟨.ll9, 0b1_100001100⟩, .len268 1),
   (⟨.ll9, 0b10_100001101⟩, .len269 2), (⟨.ll9, 0b10_100001110⟩, .len270 2),
   (⟨.ll9, 0b10_100001111⟩, .len271 2), (⟨.ll9, 0b10_100010000⟩, .len272 2),
   (⟨.ll9, 0b100_100010001⟩, .len273 4), (⟨.ll9, 0b100_100010010⟩, .len274 4),
   (⟨.ll9, 0b100_100010011⟩, .len275 4), (⟨.ll9, 0b100_100010100⟩, .len276 4),
   (⟨.ll9, 0b1100_100010101⟩, .len277 12), (⟨.ll9, 0b1100_100010110⟩, .len278 12),
   (⟨.ll9, 0b1100_100010111⟩, .len279 12), (⟨.ll9, 0b1100_100011000⟩, .len280 12),
   (⟨.ll9, 0b11010_100011001⟩, .len281 26), (⟨.ll9, 0b11010_100011010⟩, .len282 26),
   (⟨.ll9, 0b11010_100011011⟩, .len283 26), (⟨.ll9, 0b11010_100011100⟩, .len284 26),
   (⟨.ll9, 0b100011101⟩, .len285)]

theorem test_decode_length : ∀ e ∈ lengthWords, decode e.1 = .ok e.2 := by decide

/-- Every distance symbol: its extra value above the 5-bit symbol id (R103, R104; log 6). -/
def distanceWords : List (Code × Instr) :=
  [(⟨.d5, 0b00000⟩, .dist0), (⟨.d5, 0b00001⟩, .dist1), (⟨.d5, 0b00010⟩, .dist2),
   (⟨.d5, 0b00011⟩, .dist3), (⟨.d5, 0b1_00100⟩, .dist4 1), (⟨.d5, 0b1_00101⟩, .dist5 1),
   (⟨.d5, 0b10_00110⟩, .dist6 2), (⟨.d5, 0b10_00111⟩, .dist7 2),
   (⟨.d5, 0b100_01000⟩, .dist8 4), (⟨.d5, 0b100_01001⟩, .dist9 4),
   (⟨.d5, 0b1100_01010⟩, .dist10 12), (⟨.d5, 0b1100_01011⟩, .dist11 12),
   (⟨.d5, 0b11010_01100⟩, .dist12 26), (⟨.d5, 0b11010_01101⟩, .dist13 26),
   (⟨.d5, 0b110010_01110⟩, .dist14 50), (⟨.d5, 0b110010_01111⟩, .dist15 50),
   (⟨.d5, 0b1100100_10000⟩, .dist16 100), (⟨.d5, 0b1100100_10001⟩, .dist17 100),
   (⟨.d5, 0b11001010_10010⟩, .dist18 202), (⟨.d5, 0b11001010_10011⟩, .dist19 202),
   (⟨.d5, 0b110010100_10100⟩, .dist20 404), (⟨.d5, 0b110010100_10101⟩, .dist21 404),
   (⟨.d5, 0b1100101000_10110⟩, .dist22 808), (⟨.d5, 0b1100101000_10111⟩, .dist23 808),
   (⟨.d5, 0b11001010010_11000⟩, .dist24 1618), (⟨.d5, 0b11001010010_11001⟩, .dist25 1618),
   (⟨.d5, 0b110010100110_11010⟩, .dist26 3238), (⟨.d5, 0b110010100110_11011⟩, .dist27 3238),
   (⟨.d5, 0b1100101001100_11100⟩, .dist28 6476),
   (⟨.d5, 0b1100101001100_11101⟩, .dist29 6476)]

theorem test_decode_distance : ∀ e ∈ distanceWords, decode e.1 = .ok e.2 := by decide

/-- Every CL symbol: its extra value above the 5-bit symbol id (R101; log 6). -/
def codeLengthWords : List (Code × Instr) :=
  [(⟨.cl5, 0b00000⟩, .clLen0), (⟨.cl5, 0b00001⟩, .clLen1), (⟨.cl5, 0b00010⟩, .clLen2),
   (⟨.cl5, 0b00011⟩, .clLen3), (⟨.cl5, 0b00100⟩, .clLen4), (⟨.cl5, 0b00101⟩, .clLen5),
   (⟨.cl5, 0b00110⟩, .clLen6), (⟨.cl5, 0b00111⟩, .clLen7), (⟨.cl5, 0b01000⟩, .clLen8),
   (⟨.cl5, 0b01001⟩, .clLen9), (⟨.cl5, 0b01010⟩, .clLen10), (⟨.cl5, 0b01011⟩, .clLen11),
   (⟨.cl5, 0b01100⟩, .clLen12), (⟨.cl5, 0b01101⟩, .clLen13), (⟨.cl5, 0b01110⟩, .clLen14),
   (⟨.cl5, 0b01111⟩, .clLen15), (⟨.cl5, 0b10_10000⟩, .cl16 2),
   (⟨.cl5, 0b100_10001⟩, .cl17 4), (⟨.cl5, 0b1100100_10010⟩, .cl18 100)]

theorem test_decode_codeLength : ∀ e ∈ codeLengthWords, decode e.1 = .ok e.2 := by decide

/-- The block headers: `BTYPE` above `BFINAL` (R98). -/
def blockWords : List (Code × Instr) :=
  [(⟨.bh3, 0b01_0⟩, .blockFixed 0), (⟨.bh3, 0b01_1⟩, .blockFixed 1),
   (⟨.bh3, 0b10_0⟩, .blockDynamic 0), (⟨.bh3, 0b10_1⟩, .blockDynamic 1)]

theorem test_decode_block : ∀ e ∈ blockWords, decode e.1 = .ok e.2 := by decide


/-- Words of the opcode table, read without a format (log 7). -/
theorem test_table_words :
    decodeTableWord 16 0x1041 = some (.push 0x41) ∧ decodeTableWord 16 0b100000000 = some .eob ∧
    decodeTableWord 16 269 = some (.len269 0) ∧ decodeTableWord 8 0b010 = some (.blockFixed 0) ∧
    decodeTableWord 8 16 = some (.cl16 0) ∧ decodeTableWord 8 19 = some (.dist19 0) ∧
    decodeTableWord 8 256 = none := by decide

/-! ## Host commands (`95_test_vectors.md` 2.9) -/

/-- The state with one command word as its next turn. -/
def withCmd (s : State) (w : CmdWord) : State := { s with turns := [.cmd w] }

/-- What a step's next state shows through a function; `none` where the step stops. -/
def shown {α : Type} (o : Host.Outcome State Fault Refusal) (f : State → α) : Option α :=
  match o with
  | .next s => some (f s)
  | .fault _ => none
  | .refused _ => none

theorem test_nop_responds_0 : shown (step (withCmd State.reset 0x0000)) State.resp = some 0 := by decide

theorem test_read_status_at_reset :
    shown (step (withCmd State.reset 0x4000)) State.resp = some 0x00000001 := by decide

theorem test_read_reserved_register :
    shown (step (withCmd State.reset 0x4009)) (fun s => (s.resp, s.phase)) = some (0, .encode) := by
  decide

theorem test_push_accepted :
    shown (step (withCmd State.reset 0x1041)) (fun s => (s.resp, s.r, s.isize, s.store)) =
      some (1, 1, 1, [(0, 0x41)]) := by decide

theorem test_push_after_eoi :
    shown (step (withCmd { State.reset with eoi := true, bitq := [true] } 0x1041))
      (fun s => (s.resp, s.phase, s.faultcode, s.bitq, s.r)) = some (0, .fault, 1, [], 0) := by decide

theorem test_eoi_sets_eoi :
    shown (step (withCmd State.reset 0x2000)) (fun s => (s.resp, s.eoi, s.status)) =
      some (0, true, 0x00000004) := by decide

theorem test_eoi_twice :
    shown (step (withCmd { State.reset with eoi := true } 0x2000)) (fun s => (s.faultcode, s.status)) =
      some (2, 0x00000514) := by decide

theorem test_illegal_words :
    shown (step (withCmd State.reset 0x6000)) (fun s => (s.faultcode, s.status)) =
        some (3, 0x00000510) ∧
      shown (step (withCmd State.reset 0x1100)) (fun s => (s.faultcode, s.r)) = some (3, 0) ∧
      shown (step (withCmd State.reset 0x0001)) State.faultcode = some 3 := by decide

theorem test_abort : shown (step (withCmd State.reset 0x5000)) State.faultcode = some 4 := by decide

theorem test_fault_keeps_first_code :
    shown (step (withCmd (State.reset.raise .illegalCmd) 0x1041)) (fun s => (s.faultcode, s.r)) =
        some (3, 0) ∧
      shown (step (withCmd (State.reset.raise .illegalCmd) 0x5000)) State.faultcode = some 3 := by
  decide

theorem test_pop_bytes :
    shown (step (withCmd { State.reset with oq := [⟨3, false⟩, ⟨0, true⟩] } 0x3000))
        (fun s => (s.resp, s.oq)) = some (0x00000103, [⟨0, true⟩]) ∧
      shown (step (withCmd { State.reset with oq := [⟨0, true⟩] } 0x3000))
        (fun s => (s.resp, s.oq)) = some (0x00000300, []) := by decide

theorem test_pop_empty : shown (step (withCmd State.reset 0x3000)) State.resp = some 0 := by decide

theorem test_soft_reset :
    shown (step (withCmd (State.reset.raise .inputAbort) 0xF000))
      (fun s => (s.faultcode, s.phase, s.resp)) = some (0, .encode, 0) := by decide

theorem test_status_done :
    State.status { State.reset with phase := .done, eoi := true } = 0x0000040C ∧
      State.status { State.reset with phase := .done, eoi := true, oq := [⟨0, true⟩] } = 0x0000040E := by
  decide

/-! ## Symbol tables (2.1) -/

theorem test_length_codes :
    lenCode 3 = some ⟨257, 0, 0⟩ ∧ lenCode 19 = some ⟨269, 0, 2⟩ ∧ lenCode 226 = some ⟨283, 31, 5⟩ ∧
    lenCode 257 = some ⟨284, 30, 5⟩ ∧ lenCode 258 = some ⟨285, 0, 0⟩ ∧ lenCode 259 = none := by decide

theorem test_distance_codes :
    distCode 1 = some ⟨0, 0, 0⟩ ∧ distCode 256 = some ⟨15, 63, 6⟩ ∧ distCode 16384 = some ⟨27, 4095, 12⟩ ∧
    distCode 24577 = some ⟨29, 0, 13⟩ ∧ distCode 32768 = some ⟨29, 8191, 13⟩ ∧ distCode 0 = none := by
  decide

/-! ## Code lengths, codes and the CL encoder (2.3 to 2.5) -/

theorem test_build_lengths :
    buildLengths [3, 1, 1] = .ok [1, 2, 2] ∧ buildLengths [0, 0, 7, 0] = .ok [0, 0, 1, 0] ∧
    buildLengths [1, 2, 3, 4, 5] = .ok [3, 3, 2, 2, 2] ∧
    buildLengths [10, 1, 1, 1, 1, 1, 1] = .ok [1, 4, 4, 4, 4, 3, 3] ∧
    buildLengths [2, 2, 2, 2, 2, 2] = .ok [3, 3, 3, 3, 2, 2] ∧
    buildLengths [0, 0] = .error .emptyAlphabet := by decide

theorem test_limiter :
    limitRound [9, 9, 8, 7, 6, 5, 4, 3, 2, 1] 7 9 = .ok [7, 8, 8, 7, 7, 5, 4, 3, 2, 1] ∧
    limitedLengths [1, 1, 2, 3, 5, 8, 13, 21, 34, 55] 7 = .ok [7, 6, 7, 7, 7, 6, 4, 3, 2, 1] := by
  decide

theorem test_build_codes :
    buildCodes [3, 3, 3, 3, 3, 2, 4, 4] = [2, 3, 4, 5, 6, 0, 14, 15] ∧
    buildCodes [2, 1, 3, 3] = [2, 0, 6, 7] ∧
    buildCodes [7, 6, 7, 7, 7, 6, 4, 3, 2, 1] = [124, 60, 125, 126, 127, 61, 14, 6, 2, 0] := by decide

theorem test_cl_runs :
    encodeCl (List.replicate 139 0) = [⟨18, 127, 7⟩, ⟨0, 0, 0⟩] ∧
    encodeCl (List.replicate 10 0) = [⟨17, 7, 3⟩] ∧
    encodeCl (List.replicate 10 8) = [⟨8, 0, 0⟩, ⟨16, 3, 2⟩, ⟨16, 0, 2⟩] ∧
    encodeCl [5, 5, 5] = [⟨5, 0, 0⟩, ⟨5, 0, 0⟩, ⟨5, 0, 0⟩] ∧
    encodeCl [7, 0, 0, 7, 7, 7, 7, 7, 7, 7, 7] =
      [⟨7, 0, 0⟩, ⟨0, 0, 0⟩, ⟨0, 0, 0⟩, ⟨7, 0, 0⟩, ⟨16, 3, 2⟩, ⟨7, 0, 0⟩] := by decide

/-! ## Bits and elements (2.4, 2.7; R252's example) -/

theorem test_put_bits :
    fieldBits 5 3 = [true, false, true] ∧ fieldBits 2 2 = [false, true] ∧
    codeBits 0b110 3 = [true, true, false] ∧
    codeBits 0x91 8 = [true, false, false, true, false, false, false, true] := by decide

theorem test_head_byte :
    headByte [true, true, false, false, true, true, true, false] = 0x73 := by decide

/-- The fixed codes of 2.4. -/
theorem test_fixed_codes :
    ([65, 97, 144, 256, 269, 280].map fun i => (buildCodes fixedLenLL).getD i 0) =
      [0x71, 0x91, 0b110010000, 0, 0b0001101, 0b11000000] := by decide +kernel

/-! ## The match finder and the core's steps (2.2) -/

/-- A state that has consumed the first `p` of the bytes given, after end of input. -/
def reading (p : Nat) (index : PrefixIndex) (bytes : List Byte) : State :=
  { State.reset with
    p := p, r := bytes.length, eoi := true, store := storeOf 0 bytes, pindex := index
    isize := BitVec.ofNat 32 bytes.length }

/-- The bytes `"abcabcabc"`. -/
def abc9 : List Byte := [97, 98, 99, 97, 98, 99, 97, 98, 99]

/-- `"abcabcabc"` at `p = 3`: the overlapping match `(6, 3)` (R156, R159). -/
theorem test_overlapping_match :
    (reading 3 [(0x616263, [0]), (0x626361, [1]), (0x636162, [2])] abc9).findBestMatch 3 6 =
      some ⟨6, 3⟩ := by decide

/-- With 3 bytes left there is no match (R158). -/
theorem test_lookahead_gate :
    (reading 3 [(0x616263, [0])] [97, 98, 99, 97, 98, 99]).findBestMatch 3 3 = some ⟨0, 0⟩ := by decide

/-- Of candidates that match equally far the most recent wins (R160). -/
theorem test_tie_takes_most_recent :
    (reading 10 [(0x616263, [5, 0])]
        [97, 98, 99, 100, 49, 97, 98, 99, 100, 50, 97, 98, 99, 100]).findBestMatch 10 4 =
      some ⟨4, 5⟩ := by decide

/-- A state at cursor `p` whose window holds `"abcd"` at its oldest position, and the same ahead. -/
def farWindow (p : Nat) : State :=
  { State.reset with
    p := p, r := p + 4, eoi := true
    store := [(p - 32768, 97), (p - 32767, 98), (p - 32766, 99), (p - 32765, 100),
      (p, 97), (p + 1, 98), (p + 2, 99), (p + 3, 100)]
    pindex := [(0x616263, [p - 32768])] }

/-- Distance 32768 is in reach (R150), -/
theorem test_window_reaches_32768 :
    (farWindow 32768).findBestMatch 32768 4 = some ⟨4, 32768⟩ := by decide

/-- and a CONSUME lets that position go and registers its own (R153). -/
theorem test_consume_evicts :
    (farWindow 40000).consume.map (fun t => (t.p, t.pindex, t.store.map Prod.fst)) =
      some (40001, [(0x616263, [40000])], [7233, 7234, 7235, 40000, 40001, 40002, 40003]) := by decide

/-! ## Pseudo-commands (R96) -/

/-- What an outcome shows, whatever it carries. -/
def answered {α β : Type} (o : Host.Outcome α Fault Refusal) (f : α → β) : Option β :=
  match o with
  | .next a => some (f a)
  | .fault _ => none
  | .refused _ => none

/-- PUSHS pushes a text byte by byte; `"abc"` is `0x61 0x62 0x63` (2.9, P3). -/
theorem test_pushs :
    (pushText [0, 2, 1] State.reset ['a', 'b', 'c']).bind
        (fun o => answered o fun a => (a.1.r, a.1.store, a.2)) =
      some (3, [(0, 0x61), (1, 0x62), (2, 0x63)], []) := by decide

/-- A PUSH with `ACCEPTED = 0` is tried again: in `FAULT` no try is accepted, and the byte stays. -/
theorem test_pushb_retries :
    answered (pushBytes [0, 0, 0] (State.reset.raise .inputAbort) [7]) (fun a => (a.1.r, a.2)) =
      some (0, [7]) := by decide

/-- DRAIN skips a response with `VALID = 0` and stops at `LAST = 1`: the bits of 3 and 0 reach the FIFO
after the first POP. -/
theorem test_drain :
    answered
        (drainOutput [0, 1, 1, 5]
          { State.reset with phase := .drainFinal, bitq := fieldBits 3 16 })
        (fun a => (a.2, a.1.phase, a.1.oq)) =
      some ([3, 0], .done, []) := by decide

theorem test_wait_done :
    answered
        (waitDone [0, 1, 9] { State.reset with phase := .drainFinal, bitq := fieldBits 3 8 })
        (fun a => a.resp) =
      some 0x0000040B := by decide

/-- A complete run of the empty input with core turns before every command: `03 00`, ISIZE 0 (R374). -/
theorem test_hostRun :
    answered (hostRun ⟨1, [], 2, [2, 1], 1, 1⟩ State.reset [])
        (fun a => (a.output, a.crc, a.isize, a.unpushed)) =
      some ([0x03, 0x00], 0, 0, []) := by decide +kernel

/-! ## States for the witnesses -/

/-- `"abcabcabc"` with three literals encoded: the next core step is a match. -/
def busy : State :=
  { reading 3 [(0x616263, [0]), (0x626361, [1]), (0x636162, [2])] abc9 with
    sym := [.lit 97, .lit 98, .lit 99], symcount := 3
    freqLL := bump (bump (bump (Vector.replicate 286 0) 97) 98) 99 }

/-- `n` zero bytes accepted, none encoded, the input still open. -/
def received (n : Nat) : State :=
  { State.reset with
    r := n, store := storeOf 0 (List.replicate n 0), isize := BitVec.ofNat 32 n }

/-- The lookahead an encode step waits for: the next core step is a literal. -/
def early : State := received 260

theorem busy_index : ∀ k, busy.pindex.get k = busy.indexSpec k := by
  intro k
  have h0 : busy.keyAt 0 = some 0x616263 := by decide +kernel
  have h1 : busy.keyAt 1 = some 0x626361 := by decide +kernel
  have h2 : busy.keyAt 2 = some 0x636162 := by decide +kernel
  have hr : (List.range' busy.wstart (busy.p - busy.wstart)).reverse = [2, 1, 0] := by decide +kernel
  have hn : busy.r = 9 := rfl
  have hg : busy.pindex = [(0x616263, [0]), (0x626361, [1]), (0x636162, [2])] := rfl
  unfold State.indexSpec
  rw [hr, hg]
  simp only [PrefixIndex.get, List.filter, h0, h1, h2, hn, Option.some.injEq]
  by_cases k0 : 0x616263#24 = k
  · subst k0; decide
  · by_cases k1 : 0x626361#24 = k
    · subst k1; decide
    · by_cases k2 : 0x636162#24 = k
      · subst k2; decide
      · simp [k0, k1, k2]

theorem busy_freq : FreqInv busy where
  ll := by
    intro i hi
    have h : busy.freqLL = bump (bump (bump (Vector.replicate 286 0) 97) 98) 99 := rfl
    have hc : busy.sym.map Sym.llId = [some 97, some 98, some 99] := rfl
    rw [h, entry_bump _ (by decide), entry_bump _ (by decide), entry_bump _ (by decide),
      entry_replicate, hc]
    by_cases h1 : i = 97
    · subst h1; decide
    · by_cases h2 : i = 98
      · subst h2; decide
      · by_cases h3 : i = 99
        · subst h3; decide
        · simp [Ne.symm h1, Ne.symm h2, Ne.symm h3, h1, h2, h3]
  d := by
    intro i hi
    have h : busy.freqD = Vector.replicate 30 0 := rfl
    have hc : busy.sym.map Sym.dId = [none, none, none] := rfl
    rw [h, entry_replicate, hc]
    simp

theorem busy_invariant : Invariant busy where
  cursor := ⟨by decide, le_trans (by decide) laCap_ge⟩
  store := by unfold StoreInv; decide
  index := ⟨⟨by decide, by decide⟩, busy_index, by decide⟩
  sym := ⟨by decide, by decide, by decide, by decide, by decide⟩
  freq := busy_freq
  phase := ⟨by decide, by decide, by decide, by decide, by decide, by decide⟩
  out := Nat.zero_le _
  size := by unfold SizeInv; decide

theorem received_index (n : Nat) (k : Key) :
    (received n).pindex.get k = (received n).indexSpec k := by
  have hr : (List.range' (received n).wstart ((received n).p - (received n).wstart)).reverse = [] := by
    rfl
  have hg : (received n).pindex = [] := rfl
  unfold State.indexSpec
  rw [hr, hg]
  rfl

theorem received_freq (n : Nat) : FreqInv (received n) where
  ll := fun i _ => entry_replicate i
  d := fun i _ => entry_replicate i

theorem received_invariant {n : Nat} (hn : n ≤ 260) (hs : StoreInv (received n)) :
    Invariant (received n) where
  cursor := ⟨Nat.zero_le _, le_trans (Nat.sub_le n 0) (le_trans hn laCap_ge)⟩
  store := hs
  index := ⟨reset_pindex_wf, received_index n, fun _ => .inl rfl⟩
  sym := ⟨rfl, Nat.zero_le _, fun _ => Nat.zero_le _, fun _ => rfl, rfl⟩
  freq := received_freq n
  phase := by constructor <;> simp [received, State.reset]
  out := Nat.zero_le _
  size := rfl

theorem early_invariant : Invariant early :=
  received_invariant (le_refl 260) (by unfold StoreInv; decide +kernel)

/-! ## Witnesses: encodings and the step

Each theorem below shows a state and operands that meet every hypothesis of the obligation it is named
after, clause by clause where there are several. -/

theorem witness_DecodeEncodeAgree :
    (Instr.len284 30).wf = true ∧ (Instr.push 0xFF).wf = true := by decide

theorem witness_EncodeDecodeAgree : decode ⟨.d5, 0b1111111111111_11101⟩ = .ok (.dist29 8191) := by
  decide

theorem witness_OpcodeMap :
    (0x10FF#16 &&& 0xFF00 = 0x1000) ∧ (0x40FF#16 &&& 0xFF00 = 0x4000) ∧
      (6 ≤ (cmdOpc 0x6000).toNat ∧ (cmdOpc 0x6000).toNat ≤ 14) ∧
      (6 ≤ (cmdOpc 0xEFFF).toNat ∧ (cmdOpc 0xEFFF).toNat ≤ 14) := by decide

theorem witness_IllegalWords :
    (withCmd State.reset 0x1100).turns = [.cmd 0x1100] ∧ illegalWord 0x1100 ∧ illegalWord 0x0001 ∧
      illegalWord 0xE000 ∧ (withCmd State.reset 0x1100).phase ≠ .fault ∧
      (withCmd (State.reset.raise .inputAbort) 0x1100).phase = .fault := by
  unfold illegalWord; decide

/-- A state with one turn. -/
def withTurn (s : State) (x : Turn) : State := { s with turns := [x] }

theorem witness_StepRunsDecoded :
    (withCmd State.reset 0x1041).turns = [.cmd 0x1041] ∧ decodeCmd 0x1041 = .ok (.push 0x41) ∧
      (withTurn State.reset (.elem ⟨.ll9, 97⟩)).turns = [.elem ⟨.ll9, 97⟩] ∧
      decode ⟨.ll9, 97⟩ = .ok (.lit 97) ∧ (⟨.ll9, 97⟩ : Code).fmt ≠ .cmd16 ∧
      (withTurn State.reset .core).turns = [.core] ∧ (withTurn State.reset .rst).turns = [.rst] ∧
      State.reset.turns = [] := by decide

theorem witness_FetchedWordRuns : decodeTableWord 16 0x1041 = some (.push 0x41) := by decide

theorem witness_ResetOperation : (withTurn busy .rst).turns = [.rst] := by decide

/-! ## Witnesses: commands -/

/-- A state whose lookahead is full, whatever `LA_CAP` is. -/
def fullLookahead : State := { State.reset with r := Config.laCap }

/-- A state one byte short of the position limit, whatever `POS_WIDTH` is. -/
def atLimit : State :=
  { State.reset with r := 2 ^ Config.posWidth - 1, p := 2 ^ Config.posWidth - 1 }

/-- A state in `FAULT`. -/
def faulted : State := State.reset.raise .illegalCmd

/-- A state after EOI. -/
def ended : State := { State.reset with eoi := true }

theorem laCap_pos : 0 < Config.laCap := lt_of_lt_of_le (by decide) laCap_ge

theorem posWidth_ne_one : 1 ≠ 2 ^ Config.posWidth := by
  have h : 2 ^ 33 ≤ 2 ^ Config.posWidth := Nat.pow_le_pow_right (by decide) posWidth_ge
  omega

theorem witness_PushResult :
    faulted.phase = .fault ∧ (ended.phase ≠ .fault ∧ ended.eoi = true) ∧
      (fullLookahead.phase ≠ .fault ∧ fullLookahead.eoi = false ∧
        Config.laCap ≤ fullLookahead.r - fullLookahead.p) ∧
      (atLimit.phase ≠ .fault ∧ atLimit.eoi = false ∧ atLimit.r - atLimit.p < Config.laCap ∧
        atLimit.r + 1 = 2 ^ Config.posWidth) ∧
      (busy.wstart ≤ 8 ∧ 8 < busy.r ∧ CursorInv busy) ∧
      (State.reset.phase ≠ .fault ∧ State.reset.eoi = false ∧
        State.reset.r - State.reset.p < Config.laCap ∧
        State.reset.r + 1 ≠ 2 ^ Config.posWidth) := by
  refine ⟨by decide, by decide, ⟨by decide, by decide, ?_⟩, ⟨by decide, by decide, ?_, ?_⟩,
    ⟨by decide, by decide, busy_invariant.cursor⟩, by decide, by decide, laCap_pos, posWidth_ne_one⟩
  · exact Nat.le_refl _
  · show 2 ^ Config.posWidth - 1 - (2 ^ Config.posWidth - 1) < Config.laCap
    rw [Nat.sub_self]; exact laCap_pos
  · exact Nat.sub_add_cancel Nat.one_le_two_pow

theorem witness_EoiResult :
    faulted.phase = .fault ∧ (ended.phase ≠ .fault ∧ ended.eoi = true) ∧
      State.reset.phase ≠ .fault ∧ State.reset.eoi = false := by decide

theorem witness_PopResult :
    State.reset.oq = [] ∧
      ({ State.reset with oq := [⟨3, false⟩] } : State).oq = [⟨3, false⟩] := by decide

theorem witness_ReadRegResult :
    State.reset.oq.length < 2 ^ 32 ∧ 9 ≤ (9 : Byte).toNat ∧ 9 ≤ (255 : Byte).toNat := by decide

theorem witness_AbortResult : State.reset.phase ≠ .fault ∧ faulted.phase = .fault := by decide

theorem witness_ReservedOpcodes :
    Instr.reservedOpcE 0xFFF ∈ [Instr.reservedOpc6 0xFFF, .reservedOpc7 0xFFF, .reservedOpc8 0xFFF,
      .reservedOpc9 0xFFF, .reservedOpcA 0xFFF, .reservedOpcB 0xFFF, .reservedOpcC 0xFFF,
      .reservedOpcD 0xFFF, .reservedOpcE 0xFFF] ∧
      State.reset.phase ≠ .fault ∧ faulted.phase = .fault := by decide

theorem witness_FaultSticky :
    (withCmd faulted 0x5000).phase = .fault ∧ (withCmd faulted 0x5000).nextTurn.isReset = false ∧
      (withCmd faulted 0x5000).nextTurn.isElem = false := by decide

theorem faulted_phaseInv : PhaseInv faulted :=
  ⟨by decide, by decide, by decide, by decide, by decide, by decide⟩

theorem witness_CommandsInFault : faulted.phase = .fault ∧ PhaseInv faulted ∧ illegalWord 0x6000 :=
  ⟨rfl, faulted_phaseInv, by unfold illegalWord; decide⟩

/-- A state in `DONE` with one entry not yet popped. -/
def finished : State := { ended with phase := .done, oq := [⟨0, true⟩] }

theorem finished_phaseInv : PhaseInv finished :=
  ⟨by decide, by decide, by decide, by decide, by decide, by decide⟩

theorem witness_CommandsInDone : finished.phase = .done ∧ PhaseInv finished ∧
    finished.oq = [⟨0, true⟩] ∧ illegalWord 0x6000 :=
  ⟨rfl, finished_phaseInv, rfl, by unfold illegalWord; decide⟩

theorem witness_OnlyPushChangesInput :
    (∃ t, step (withCmd State.reset 0x1041) = .next t ∧
        (withCmd State.reset 0x1041).nextTurn.isReset = false ∧ t.r ≠ State.reset.r) ∧
      (∃ t, step (withCmd ended 0x0000) = .next t ∧ (withCmd ended 0x0000).nextTurn.isReset = false ∧
        (withCmd ended 0x0000).eoi = true) := by
  refine ⟨⟨_, rfl, by decide, by decide⟩, ⟨_, rfl, by decide, by decide⟩⟩

/-- One byte accepted and one entry to pop: `IN_READY` and `OUT_VALID` are both set. -/
def oneOut : State :=
  { State.reset with r := 1, store := [(0, 65)], isize := 1, oq := [⟨3, false⟩] }

theorem oneOut_invariant : Invariant oneOut where
  cursor := ⟨by decide, le_trans (by decide) laCap_ge⟩
  store := by unfold StoreInv; decide
  index := ⟨reset_pindex_wf, fun _ => rfl, by decide⟩
  sym := ⟨rfl, Nat.zero_le _, fun _ => Nat.zero_le _, fun _ => rfl, rfl⟩
  freq := ⟨fun i _ => entry_replicate i, fun i _ => entry_replicate i⟩
  phase := ⟨by decide, by decide, by decide, by decide, by decide, by decide⟩
  out := oqDepth_pos
  size := rfl

theorem witness_StatusSnapshots :
    Invariant oneOut ∧ oneOut.turns = [] ∧ oneOut.status.getLsbD 0 = true ∧
      oneOut.status.getLsbD 1 = true ∧ oneOut.r + 1 ≠ 2 ^ Config.posWidth := by
  refine ⟨oneOut_invariant, rfl, by decide, by decide, fun h => ?_⟩
  have h33 : 2 ^ 33 ≤ 2 ^ Config.posWidth := Nat.pow_le_pow_right (by decide) posWidth_ge
  have h2 : (2 : Nat) = 2 ^ Config.posWidth := h
  omega

/-! ## Witnesses: blocks, bits and the core agent -/

theorem witness_PayloadByElements :
    symsOk ({ State.reset with sym := [.lit 97, .len 269 3 2, .dist 4 1 1, .len 284 30 5, .dist 29 8191 13]
              } : State).sym = true := by decide

theorem witness_PutBitsPutCode : 12 < 13 ∧ 0 < 1 := by decide

theorem witness_ByteAssembly : 8 < [true, true, false, false, true, true, true, false, true].length := by
  decide

/-- A state in `DRAIN` with 9 bits, and one in `DRAIN_FINAL` with 8. -/
def draining : State := { State.reset with phase := .drain, bitq := List.replicate 9 true }
def drainingFinal : State := { ended with phase := .drainFinal, bitq := List.replicate 8 true }

theorem witness_DrainByte :
    (draining.phase = .drain ∧ 8 ≤ draining.bitq.length ∧ draining.bitq.length < 16 ∧
        draining.oq.length < Config.oqDepth) ∧
      (drainingFinal.phase = .drainFinal ∧ 8 ≤ drainingFinal.bitq.length ∧
        drainingFinal.bitq.length < 16 ∧ drainingFinal.oq.length < Config.oqDepth) ∧
      16 ≤ ({ draining with bitq := List.replicate 16 true } : State).bitq.length :=
  ⟨⟨rfl, by decide, by decide, oqDepth_pos⟩, ⟨rfl, by decide, by decide, oqDepth_pos⟩, by decide⟩

theorem witness_Stalls :
    CursorInv oneOut ∧ PhaseInv oneOut ∧ oneOut.phase ≠ .done ∧ oneOut.phase ≠ .fault ∧
      oneOut.enabledStep = none :=
  ⟨oneOut_invariant.cursor, oneOut_invariant.phase, by decide, by decide, by decide⟩

theorem busy_match : busy.findBestMatch busy.p (busy.r - busy.p) = some ⟨6, 3⟩ := by decide

theorem early_literal : early.findBestMatch early.p (early.r - early.p) = some ⟨0, 0⟩ := by
  decide +kernel

theorem witness_EncodeStepResult :
    (Invariant busy ∧ busy.phase = .encode ∧ busy.p < busy.r ∧ busy.eoi = true) ∧
      (Invariant early ∧ early.phase = .encode ∧ early.p < early.r ∧ 260 ≤ early.r - early.p) :=
  ⟨⟨busy_invariant, rfl, by decide, rfl⟩, early_invariant, rfl, by decide, by decide⟩

theorem witness_EncodeLossless :
    Invariant busy ∧ busy.phase = .encode ∧ busy.p < busy.r ∧ busy.eoi = true :=
  witness_EncodeStepResult.1

theorem witness_EncodeIgnoresLaterInput :
    Invariant early ∧ early.phase = .encode ∧ early.eoi = false ∧ 260 ≤ early.r - early.p :=
  ⟨early_invariant, rfl, rfl, by decide⟩

/-- A match with 6 bytes left, and each side of the boundary of 4. -/
theorem witness_MatchExists :
    (Invariant busy ∧ 4 ≤ busy.r - busy.p) ∧
      (Invariant (received 3) ∧ (received 3).r - (received 3).p < 4) ∧
      (Invariant (received 4) ∧ 4 ≤ (received 4).r - (received 4).p) :=
  ⟨⟨busy_invariant, by decide⟩,
   ⟨received_invariant (by decide) (by unfold StoreInv; decide), by decide⟩,
   ⟨received_invariant (by decide) (by unfold StoreInv; decide), by decide⟩⟩

theorem witness_MatchPolicy :
    busy.matchFrom 0 3 6 0 = some 6 ∧ busy.matchFrom 1 3 6 0 = some 0 ∧
      busy.findBestMatch 3 6 = some ⟨6, 3⟩ := by decide

theorem witness_IndexBounded : IndexInv busy := busy_invariant.index

theorem witness_FlushWritesBlock : ({ busy with phase := .flush } : State).phase = .flush := rfl

theorem witness_FinishWritesFinal :
    (ended.phase = .encode ∧ ended.eoi = true ∧ ended.p = ended.r ∧ ended.symcount.toNat < 200) ∧
      200 ≤ ({ ended with symcount := 200 } : State).symcount.toNat := by decide

/-! ## Witnesses: tables, codes and streams -/

theorem witness_LengthCodes :
    (⟨284, 5, 227, 257⟩ : PartitionRow) ∈ lengthPartition ∧ 227 ≤ 257 ∧ 257 < 259 ∧ 3 ≤ 258 := by
  decide

theorem witness_DistanceCodes :
    (⟨29, 13, 24577, 32768⟩ : PartitionRow) ∈ distancePartition ∧ 24577 ≤ 32768 ∧ 1 ≤ 32768 := by
  decide

theorem witness_DegenerateAlphabets :
    2 < [0, 0, 7, 0].length ∧ 0 < [0, 0, 7, 0].getD 2 0 ∧
      ∀ j, j ≠ 2 → [0, 0, 7, 0].getD j 0 = 0 := by
  refine ⟨by decide, by decide, fun j hj => ?_⟩
  match j with
  | 0 => rfl
  | 1 => rfl
  | 2 => exact absurd rfl hj
  | 3 => rfl
  | _ + 4 => rfl

theorem witness_LimitedLengths :
    (1 ≤ 7 ∧ [1, 1, 2, 3, 5, 8, 13, 21, 34, 55].length ≤ 2 ^ 7 ∧
        2 ≤ usedCount [1, 1, 2, 3, 5, 8, 13, 21, 34, 55]) ∧
      (1 ≤ 15 ∧ [0, 5].length ≤ 2 ^ 15 ∧ usedCount [0, 5] = 1) := by decide

theorem witness_LimiterRound :
    7 < maxLength [9, 9, 8, 7, 6, 5, 4, 3, 2, 1] ∧
      limitRound [9, 9, 8, 7, 6, 5, 4, 3, 2, 1] 7 (maxLength [9, 9, 8, 7, 6, 5, 4, 3, 2, 1]) =
        .ok [7, 8, 8, 7, 7, 5, 4, 3, 2, 1] := by decide

theorem witness_CanonicalCodes :
    (∀ x ∈ [3, 3, 3, 3, 3, 2, 4, 4], x ≤ 15) ∧ kraftSum [3, 3, 3, 3, 3, 2, 4, 4] 15 ≤ 2 ^ 15 ∧
      [3, 3, 3, 3, 3, 2, 4, 4].getD 0 0 = [3, 3, 3, 3, 3, 2, 4, 4].getD 4 0 ∧
      [3, 3, 3, 3, 3, 2, 4, 4].getD 5 0 < [3, 3, 3, 3, 3, 2, 4, 4].getD 0 0 := by decide

theorem witness_ClRoundTrip :
    (∀ x ∈ List.replicate 10 8, x ≤ 15) ∧
      encodeCl (List.replicate 10 8) = [⟨8, 0, 0⟩] ++ ⟨16, 3, 2⟩ :: [⟨16, 0, 2⟩] := by decide

theorem witness_DynamicTablesFit :
    (match buildDynamicTables (Vector.replicate 286 0) (Vector.replicate 30 0) with
     | .ok w => decide (w.hlit = 0 ∧ w.cls.length = 4)
     | .error _ => false) = true := by decide +kernel

/-! ## Witnesses: invariants and runs -/

theorem witness_OutputAndSizeKept :
    OutInv (withCmd busy 0x0000) ∧ SizeInv (withCmd busy 0x0000) ∧
      ∃ t, step (withCmd busy 0x0000) = .next t :=
  ⟨busy_invariant.out, busy_invariant.size, _, rfl⟩

/-- The match step of `busy` answers a next state. -/
theorem busy_steps : ∃ t, step busy = .next t := by
  have h : shown (step busy) State.p = some 9 := by decide +kernel
  cases hs : step busy with
  | next t => exact ⟨t, rfl⟩
  | fault f => rw [hs] at h; simp [shown] at h
  | refused r => rw [hs] at h; simp [shown] at h

theorem witness_CursorAndStoreKept : CursorInv busy ∧ StoreInv busy ∧ ∃ t, step busy = .next t :=
  ⟨busy_invariant.cursor, busy_invariant.store, busy_steps⟩

theorem witness_IndexKept :
    CursorInv busy ∧ StoreInv busy ∧ IndexInv busy ∧ ∃ t, step busy = .next t :=
  ⟨busy_invariant.cursor, busy_invariant.store, busy_invariant.index, busy_steps⟩

theorem witness_SymbolsAndCountsKept : SymInv busy ∧ FreqInv busy ∧ ∃ t, step busy = .next t :=
  ⟨busy_invariant.sym, busy_invariant.freq, busy_steps⟩

theorem busy_agentsOnly : busy.agentsOnly := by
  have h : busy.turns = [] := rfl
  intro x hx
  rw [h] at hx
  exact absurd hx List.not_mem_nil

theorem witness_PhaseKept : busy.agentsOnly ∧ PhaseInv busy ∧ ∃ t, step busy = .next t :=
  ⟨busy_agentsOnly, busy_invariant.phase, busy_steps⟩

theorem witness_EveryStepSafe : Invariant busy ∧ busy.agentsOnly := ⟨busy_invariant, busy_agentsOnly⟩

/-- A whole run: one byte, EOI, and POPs between the core's turns. -/
def wholeRun : List Turn :=
  [.cmd 0x1041, .cmd 0x2000, .core, .core, .core, .cmd 0x3000, .core, .cmd 0x3000, .core, .cmd 0x3000]

/-- The run ends without a fault, with the last entry popped: `"A"` gives `73 04 00` (2.8). -/
theorem witness_TimingIndependence :
    (∀ x ∈ wholeRun, x.isElem = false ∧ x.isReset = false) ∧
      (viewRun 10 { State.reset with turns := wholeRun }).any
        (fun v => decide (v.final.phase ≠ .fault ∧ v.pushed = [0x41] ∧
          v.popped = [⟨0x73, false⟩, ⟨0x04, false⟩, ⟨0x00, true⟩])) = true := by
  refine ⟨by decide, by decide +kernel⟩

end Sys2Proof.Tests
end

section
/-! SUPPORT. The reset state and the STATUS register: STATUS bit by bit (R40), the table of R51, and the
proofs of O8 and O15. -/

namespace Sys2Proof.Machine

/-! ## The reset state -/

/-- Settles O8, field by field: every list is empty and every table constantly 0. -/
theorem resetState : Obligations.ResetState where
  phase := rfl
  p := rfl
  r := rfl
  eoi := rfl
  store _ := rfl
  pindex _ := rfl
  sym := rfl
  symcount := rfl
  freqLL := entry_replicate
  freqD := entry_replicate
  bitq := rfl
  oq := rfl
  isize := rfl
  crc := rfl
  blocks := rfl
  faultcode := rfl
  coreId := rfl

/-! ## STATUS -/

/-- STATUS bit by bit (R40): five flags, and above them only the phase's code in bits 10:8. -/
theorem State.status_getLsbD (s : State) (k : Nat) :
    s.status.getLsbD k =
      match k with
      | 0 => s.inReady
      | 1 => s.outValid
      | 2 => s.eoiSeen
      | 3 => s.doneFlag
      | 4 => s.faultFlag
      | k + 5 => decide (3 ≤ k) && s.phase.code.getLsbD (k - 3) := by
  -- `getLsbD_append` needs the width as the sum it comes from.
  show BitVec.getLsbD (w := 21 + 3 + 3 + 1 + 1 + 1 + 1 + 1)
    (0#21 ++ s.phase.code ++ 0#3 ++ BitVec.ofBool s.faultFlag ++ BitVec.ofBool s.doneFlag ++
      BitVec.ofBool s.eoiSeen ++ BitVec.ofBool s.outValid ++ BitVec.ofBool s.inReady) k = _
  simp only [BitVec.getLsbD_append, BitVec.getLsbD_ofBool]
  match k with
  | 0 | 1 | 2 | 3 | 4 => simp
  | k + 5 =>
    by_cases h3 : k < 3
    · simp [h3, Nat.not_le.2 h3]
    · by_cases h6 : k - 3 < 3
      · simp [h3, h6, Nat.le_of_not_lt h3]
      · simp [h3, h6, BitVec.getLsbD_of_ge _ _ (Nat.le_of_not_lt h6)]

/-- `IN_READY` is 1 when a PUSH would be accepted (R40, R301). -/
theorem State.inReady_iff (s : State) :
    s.inReady = true ↔ s.phase ≠ .fault ∧ s.eoi = false ∧ s.r - s.p < Config.laCap := by
  simp [State.inReady, lookaheadFull_false_iff, and_assoc, State.avail]

theorem State.status_bits_low (s : State) : s.status.extractLsb' 5 3 = 0 := by
  refine BitVec.eq_of_getLsbD_eq fun i hi => ?_
  rw [BitVec.getLsbD_extractLsb', Nat.add_comm, State.status_getLsbD]
  simp [Nat.not_le.2 hi]

theorem State.status_bits_phase (s : State) : s.status.extractLsb' 8 3 = s.phase.code := by
  refine BitVec.eq_of_getLsbD_eq fun i hi => ?_
  rw [BitVec.getLsbD_extractLsb', show 8 + i = i + 3 + 5 by omega, State.status_getLsbD]
  simp [hi]

theorem State.status_bits_high (s : State) : s.status.extractLsb' 11 21 = 0 := by
  refine BitVec.eq_of_getLsbD_eq fun i hi => ?_
  rw [BitVec.getLsbD_extractLsb', show 11 + i = i + 6 + 5 by omega, State.status_getLsbD]
  simp

/-- At reset the lookahead is empty, and its capacity is not 0 (R6). -/
theorem reset_status : State.reset.status = 1 := by
  have hready : State.reset.inReady = true :=
    (State.inReady_iff _).2 ⟨by decide, rfl, Nat.lt_of_lt_of_le (by decide) laCap_ge⟩
  unfold State.status
  rw [hready]
  decide

/-- Settles O15: each bit is read off STATUS by `State.status_getLsbD`. -/
theorem statusBits : Obligations.StatusBits := by
  refine ⟨fun s => ⟨?_, ?_, ?_, ?_, ?_, s.status_bits_low, ?_⟩, reset_status⟩
  · rw [s.status_getLsbD]; exact s.inReady_iff
  · rw [s.status_getLsbD]; simp [State.outValid]
  · rw [s.status_getLsbD]; rfl
  · rw [s.status_getLsbD]; simp [State.doneFlag]
  · rw [s.status_getLsbD]; simp [State.faultFlag]
  · rw [s.status_bits_phase]
    refine ⟨?_, ?_, ?_, ?_, ?_, ?_, s.status_bits_high⟩ <;> (intro h; rw [h]; rfl)

end Sys2Proof.Machine
end

section
/-! SUPPORT. The input window under the core's steps: what the store holds (R25), which reads answer
(R72), what the index lists (R152), and that CONSUME keeps both (R153). -/

namespace Sys2Proof.Machine

/-! ## The part of the state the window is made of -/

/-- Two states with the same cursor, count, store and index. -/
structure SameWindow (s t : State) : Prop where
  p : t.p = s.p
  r : t.r = s.r
  store : t.store = s.store
  pindex : t.pindex = s.pindex

theorem SameWindow.wstart {s t : State} (h : SameWindow s t) : t.wstart = s.wstart :=
  congrArg windowStart h.p

theorem SameWindow.avail {s t : State} (h : SameWindow s t) : t.avail = s.avail := by
  unfold State.avail
  rw [h.p, h.r]

theorem SameWindow.cursorInv {s t : State} (h : SameWindow s t) (hc : CursorInv s) : CursorInv t where
  cursor := by rw [h.p, h.r]; exact hc.cursor
  lookahead := by rw [h.avail]; exact hc.lookahead

theorem SameWindow.storeInv {s t : State} (h : SameWindow s t) (hs : StoreInv s) : StoreInv t := by
  unfold StoreInv at *
  rw [h.store, h.wstart, h.r]
  exact hs

theorem SameWindow.indexSpec {s t : State} (h : SameWindow s t) (k : Key) :
    t.indexSpec k = s.indexSpec k := by
  have hk := State.keyAt_congr h.p h.r h.store
  simp only [State.indexSpec, h.wstart, h.p, h.r, hk]

/-! ## The store -/

theorem StoreInv.wf {s : State} (h : StoreInv s) : s.store.wf := by
  unfold Memory.wf
  rw [h]
  exact List.pairwise_lt_range'

/-- In a store that holds the window and the lookahead, every read of R72's domain answers. -/
theorem StoreInv.winRead_isSome {s : State} (h : StoreInv s) {q : Nat} (h1 : s.wstart ≤ q)
    (h2 : q < s.r) : ∃ b, s.winRead q = some b := by
  rw [State.winRead_eq h1 h2, ← Option.isSome_iff_exists, Memory.read_isSome, h, List.mem_range'_1]
  omega

theorem StoreInv.keyAt_isSome {s : State} (h : StoreInv s) {q : Nat} (h1 : s.wstart ≤ q)
    (h2 : q + 2 < s.r) : ∃ k, s.keyAt q = some k := by
  obtain ⟨a, ha⟩ := h.winRead_isSome h1 (by omega)
  obtain ⟨b, hb⟩ := h.winRead_isSome (q := q + 1) (by omega) (by omega)
  obtain ⟨c, hc⟩ := h.winRead_isSome (q := q + 2) (by omega) h2
  exact ⟨a ++ b ++ c, by simp [State.keyAt, ha, hb, hc]⟩

theorem filter_ge_range' {a b n : Nat} (h1 : a ≤ b) (h2 : b ≤ a + n) :
    (List.range' a n).filter (fun q => decide (b ≤ q)) = List.range' b (a + n - b) := by
  have hn : n = (b - a) + (a + n - b) := by omega
  have hb : a + (b - a) = b := by omega
  have hlow : (List.range' a (b - a)).filter (fun q => decide (b ≤ q)) = [] := by
    simp only [List.filter_eq_nil_iff, List.mem_range'_1, decide_eq_true_eq]
    omega
  have hhigh : (List.range' b (a + n - b)).filter (fun q => decide (b ≤ q)) =
      List.range' b (a + n - b) := by
    simp only [List.filter_eq_self, List.mem_range'_1, decide_eq_true_eq]
    omega
  conv_lhs => rw [hn, ← List.range'_append_1, hb, List.filter_append, hlow, hhigh]
  rfl

theorem Memory.keys_dropBelow (m : Memory) (a : Nat) :
    (m.dropBelow a).map Prod.fst = (m.map Prod.fst).filter fun q => decide (a ≤ q) := by
  rw [List.filter_map]
  rfl

/-- CONSUME lets go of the position that leaves the window, and of no other. -/
theorem StoreInv.consume {s t : State} (h : StoreInv s) (hc : s.consume = some t) : StoreInv t := by
  obtain ⟨hp, x, y, -, -, rfl⟩ := State.consume_cases hc
  have hmono : s.wstart ≤ windowStart (s.p + 1) ∧ windowStart (s.p + 1) ≤ s.p + 1 := by
    simp only [State.wstart, windowStart_eq]
    omega
  show (s.store.dropBelow (windowStart (s.p + 1))).map Prod.fst =
    List.range' (windowStart (s.p + 1)) (s.r - windowStart (s.p + 1))
  rw [Memory.keys_dropBelow, h, filter_ge_range' hmono.1 (by omega)]
  congr 1
  omega

/-- An accepted byte extends the lookahead by one position (R303). -/
theorem StoreInv.acceptByte {s : State} (h : StoreInv s) (hc : s.p ≤ s.r) (b : Byte) :
    StoreInv (s.acceptByte b) := by
  have hw : s.wstart ≤ s.p := windowStart_le _
  have hlt : ∀ c ∈ s.store, c.1 < s.r := by
    intro c hm
    have hq : c.1 ∈ s.store.map Prod.fst := List.mem_map_of_mem hm
    rw [h, List.mem_range'_1] at hq
    omega
  show (s.store.write s.r b).map Prod.fst = List.range' s.wstart (s.r + 1 - s.wstart)
  have hn : s.r + 1 - s.wstart = (s.r - s.wstart) + 1 := by omega
  have he : s.wstart + (s.r - s.wstart) = s.r := by omega
  rw [Memory.write_append _ _ _ hlt, List.map_append, h, hn, List.range'_1_concat, he]
  rfl

/-! ## What the index lists -/

/-- The positions of `[a, b)` with key `k` whose three bytes have been received, in descending
order: what R152 says of the index, for any range. -/
def State.keyed (s : State) (k : Key) (a b : Nat) : List Nat :=
  ((List.range' a (b - a)).reverse).filter fun q =>
    decide (q + 2 < s.r) && decide (s.keyAt q = some k)

theorem State.indexSpec_eq (s : State) (k : Key) : s.indexSpec k = s.keyed k s.wstart s.p := rfl

theorem State.mem_keyed {s : State} {k : Key} {a b q : Nat} (h : q ∈ s.keyed k a b) :
    a ≤ q ∧ q < b ∧ q + 2 < s.r ∧ s.keyAt q = some k := by
  simp only [State.keyed, List.mem_filter, List.mem_reverse, List.mem_range'_1, Bool.and_eq_true,
    decide_eq_true_eq] at h
  obtain ⟨⟨ha, hb⟩, hr, hk⟩ := h
  exact ⟨ha, by omega, hr, hk⟩

/-- The newest position stands in front. -/
theorem State.keyed_succ_right (s : State) (k : Key) {a b : Nat} (h : a ≤ b) :
    s.keyed k a (b + 1) =
      if b + 2 < s.r ∧ s.keyAt b = some k then b :: s.keyed k a b else s.keyed k a b := by
  have hn : b + 1 - a = (b - a) + 1 := by omega
  have he : a + (b - a) = b := by omega
  unfold State.keyed
  rw [hn, List.range'_1_concat, he, List.reverse_append, List.reverse_singleton,
    List.singleton_append, List.filter_cons]
  simp only [Bool.and_eq_true, decide_eq_true_eq]

/-- The oldest position stands at the end. -/
theorem State.keyed_left (s : State) (k : Key) {a b : Nat} (h : a < b) :
    s.keyed k a b =
      s.keyed k (a + 1) b ++ if a + 2 < s.r ∧ s.keyAt a = some k then [a] else [] := by
  have hn : b - a = (b - (a + 1)) + 1 := by omega
  unfold State.keyed
  rw [hn, List.range'_succ, List.reverse_cons, List.filter_append, List.filter_singleton]
  simp only [← Bool.decide_and, Bool.cond_decide]

theorem State.keyed_congr {s t : State} (k : Key) {a b : Nat}
    (h : ∀ q, a ≤ q → q < b → (q + 2 < t.r ↔ q + 2 < s.r) ∧ (q + 2 < s.r → t.keyAt q = s.keyAt q)) :
    t.keyed k a b = s.keyed k a b := by
  unfold State.keyed
  refine List.filter_congr fun q hq => ?_
  rw [List.mem_reverse, List.mem_range'_1] at hq
  obtain ⟨hr, hk⟩ := h q hq.1 (by omega)
  by_cases hlt : q + 2 < s.r
  · rw [hk hlt]; simp [hr, hlt]
  · simp [hr, hlt]

/-- A key read three bytes that both states hold is the same in both. -/
theorem State.keyAt_eq_of_winRead {s t : State} {q : Nat}
    (h : ∀ j, q ≤ j → j < q + 3 → t.winRead j = s.winRead j) : t.keyAt q = s.keyAt q := by
  simp only [State.keyAt, h q (by omega) (by omega), h (q + 1) (by omega) (by omega),
    h (q + 2) (by omega) (by omega)]

/-! ## CONSUME and the index -/

/-- The index lists what R152 says it lists, in its canonical form: the part of R52 (3) that does not
speak of the end of input. -/
structure IndexExact (s : State) : Prop where
  canonical : s.pindex.wf
  exact : ∀ k, s.pindex.get k = s.indexSpec k

theorem IndexInv.indexExact {s : State} (h : IndexInv s) : IndexExact s := ⟨h.canonical, h.exact⟩

theorem SameWindow.indexExact {s t : State} (h : SameWindow s t) (hx : IndexExact s) :
    IndexExact t where
  canonical := by rw [h.pindex]; exact hx.canonical
  exact k := by rw [h.pindex, h.indexSpec]; exact hx.exact k

/-- Before the window is full no position leaves it (R153). -/
theorem State.evictedIndex_of_short {s : State} (h : ¬ 32768 ≤ s.p) :
    s.evictedIndex = some s.pindex := if_neg h

/-- A full window lets go of its oldest position (R153). -/
theorem State.evictedIndex_of_full {s : State} (h : 32768 ≤ s.p) :
    s.evictedIndex = (s.keyAt s.wstart).map fun k => s.pindex.evict k s.wstart := by
  have hw : s.wstart = s.p - 32768 := windowStart_eq _
  unfold State.evictedIndex
  rw [if_pos (show Config.maxBackrefDist ≤ s.p from h), hw, Config.maxBackrefDist]
  cases s.keyAt (s.p - 32768) <;> rfl

/-- Near the end of the input the key is not known, and nothing is registered (R154). -/
theorem State.registeredIndex_of_short {s : State} {x : PrefixIndex} (h : ¬ s.p + 2 < s.r) :
    s.registeredIndex x = some x := if_neg h

theorem State.registeredIndex_of_lt {s : State} {x : PrefixIndex} (h : s.p + 2 < s.r) :
    s.registeredIndex x = (s.keyAt s.p).map fun k => x.register k s.p := by
  unfold State.registeredIndex
  rw [if_pos h]
  cases s.keyAt s.p <;> rfl

/-- The oldest position of a full window stands at the end of its key's list, and eviction takes it
from there. -/
theorem IndexExact.get_evict {s : State} (h : IndexExact s) (hp : s.wstart < s.p)
    (hr : s.wstart + 2 < s.r) {e : Key} (he : s.keyAt s.wstart = some e) (k : Key) :
    (s.pindex.evict e s.wstart).get k = s.keyed k (s.wstart + 1) s.p := by
  have hlist : ∀ k, s.pindex.get k =
      s.keyed k (s.wstart + 1) s.p ++ if e = k then [s.wstart] else [] := by
    intro k
    rw [h.exact, s.indexSpec_eq, s.keyed_left k hp]
    simp [he, hr]
  rw [PrefixIndex.get_evict _ _ _ _ h.canonical, hlist e]
  by_cases hk : k = e
  · subst hk; simp
  · rw [hlist k]; simp [hk, Ne.symm hk]

/-- After the eviction the index lists the window CONSUME leaves, the consumed position not yet in it. -/
theorem IndexExact.evicted {s : State} {x : PrefixIndex} (h : IndexExact s) (hp : s.p < s.r)
    (hx : s.evictedIndex = some x) :
    x.wf ∧ ∀ k, x.get k = s.keyed k (windowStart (s.p + 1)) s.p := by
  have hw : s.wstart = s.p - 32768 := windowStart_eq _
  by_cases hfull : 32768 ≤ s.p
  · rw [State.evictedIndex_of_full hfull, Option.map_eq_some_iff] at hx
    obtain ⟨e, he, rfl⟩ := hx
    have hw' : windowStart (s.p + 1) = s.wstart + 1 := by rw [windowStart_eq, hw]; omega
    exact ⟨PrefixIndex.wf_evict _ _ _ h.canonical,
      fun k => by rw [hw', h.get_evict (by omega) (by omega) he]⟩
  · obtain rfl := Option.some.inj ((State.evictedIndex_of_short hfull).symm.trans hx)
    have hw' : windowStart (s.p + 1) = s.wstart := by rw [windowStart_eq, hw]; omega
    exact ⟨h.canonical, fun k => by rw [hw']; exact h.exact k⟩

/-- Registration adds the consumed position, when its key is known (R153, R154). -/
theorem State.registered_keyed {s : State} {x y : PrefixIndex} {a : Nat} (ha : a ≤ s.p) (hwf : x.wf)
    (hget : ∀ k, x.get k = s.keyed k a s.p) (hy : s.registeredIndex x = some y) :
    y.wf ∧ ∀ k, y.get k = s.keyed k a (s.p + 1) := by
  by_cases hr : s.p + 2 < s.r
  · rw [State.registeredIndex_of_lt hr, Option.map_eq_some_iff] at hy
    obtain ⟨e, he, rfl⟩ := hy
    refine ⟨PrefixIndex.wf_register _ _ _ hwf, fun k => ?_⟩
    rw [PrefixIndex.get_register _ _ _ _ hwf, s.keyed_succ_right k ha]
    by_cases hk : k = e
    · subst hk; simp [he, hr, hget]
    · simp [hk, Ne.symm hk, he, hget]
  · obtain rfl := Option.some.inj ((State.registeredIndex_of_short hr).symm.trans hy)
    exact ⟨hwf, fun k => by rw [s.keyed_succ_right k ha]; simp [hr, hget]⟩

/-- Letting go of the store below the new window changes no read within it. -/
theorem State.consume_keyAt {s t : State} (h : s.consume = some t) {q : Nat} (hq : t.wstart ≤ q) :
    t.keyAt q = s.keyAt q := by
  obtain ⟨hp, x, y, -, -, rfl⟩ := State.consume_cases h
  refine State.keyAt_eq_of_winRead fun j hj _ => ?_
  have hkept : windowStart (s.p + 1) ≤ j := le_trans hq hj
  have hnew : s.p + 1 ≤ j + 32768 := (windowStart_le_iff _ _).1 hkept
  have hold : s.p ≤ j + 32768 := by omega
  unfold State.winRead
  simp only [Config.maxBackrefDist, Memory.read_dropBelow, hkept, hnew, hold, if_true, true_and]

theorem IndexExact.consume {s t : State} (h : IndexExact s) (hc : s.consume = some t) :
    IndexExact t := by
  have hkey := fun {q} => State.consume_keyAt hc (q := q)
  obtain ⟨hp, x, y, hx, hy, rfl⟩ := State.consume_cases hc
  obtain ⟨hxwf, hxget⟩ := h.evicted hp hx
  have hw : windowStart (s.p + 1) ≤ s.p := by rw [windowStart_eq]; omega
  obtain ⟨hywf, hyget⟩ := State.registered_keyed hw hxwf hxget hy
  refine ⟨hywf, fun k => (hyget k).trans (State.keyed_congr k fun q hq _ => ?_).symm⟩
  exact ⟨Iff.rfl, fun _ => hkey hq⟩

/-- A byte accepted before the end of input completes no key of a consumed position, since each had
been received (R281). -/
theorem IndexInv.acceptByte_exact {s : State} (h : IndexInv s) (he : s.eoi = false) (b : Byte) :
    IndexExact (s.acceptByte b) where
  canonical := h.canonical
  exact k := by
    refine (h.exact k).trans (State.keyed_congr (t := s.acceptByte b) k fun q h1 h2 => ?_).symm
    have hq : q + 2 < s.r := by
      rcases h.received he with h0 | h0 <;> omega
    refine ⟨⟨fun _ => hq, fun _ => Nat.lt_succ_of_lt hq⟩, fun _ => ?_⟩
    refine State.keyAt_eq_of_winRead fun j _ hj => ?_
    have hjr : j < s.r := by omega
    have hj' : j < s.r + 1 := by omega
    simp only [State.winRead, State.acceptByte_p, State.acceptByte_r, State.acceptByte_store,
      Memory.read_write_other _ _ _ _ (Nat.ne_of_lt hjr), hjr, hj']

/-! ## `n` times CONSUME -/

theorem State.consumeN_induct {P : State → Prop} (hP : ∀ s t, P s → s.consume = some t → P t)
    {n : Nat} {s t : State} (hs : P s) (h : State.consumeN n s = some t) : P t := by
  induction n generalizing s with
  | zero => exact Option.some.inj h ▸ hs
  | succ n ih =>
    unfold State.consumeN at h
    split at h
    · simp at h
    · exact ih (hP _ _ hs ‹_›) h

/-- CONSUME answers wherever there is a byte to consume: every read it makes is within the window. -/
theorem StoreInv.consume_isSome {s : State} (h : StoreInv s) (hp : s.p < s.r) :
    ∃ t, s.consume = some t := by
  have hev : ∃ x, s.evictedIndex = some x := by
    by_cases hfull : 32768 ≤ s.p
    · have hw : s.wstart = s.p - 32768 := windowStart_eq _
      obtain ⟨k, hk⟩ := h.keyAt_isSome (q := s.wstart) le_rfl (by omega)
      exact ⟨_, by rw [State.evictedIndex_of_full hfull, hk]; rfl⟩
    · exact ⟨_, State.evictedIndex_of_short hfull⟩
  obtain ⟨x, hx⟩ := hev
  have hreg : ∃ y, s.registeredIndex x = some y := by
    by_cases hr : s.p + 2 < s.r
    · obtain ⟨k, hk⟩ := h.keyAt_isSome (q := s.p) (windowStart_le _) hr
      exact ⟨_, by rw [State.registeredIndex_of_lt hr, hk]; rfl⟩
    · exact ⟨_, State.registeredIndex_of_short hr⟩
  obtain ⟨y, hy⟩ := hreg
  unfold State.consume
  rw [if_pos hp, hx]
  simp only [hy]
  exact ⟨_, rfl⟩

theorem StoreInv.consumeN_isSome {n : Nat} {s : State} (h : StoreInv s) (hn : s.p + n ≤ s.r) :
    ∃ t, State.consumeN n s = some t := by
  induction n generalizing s with
  | zero => exact ⟨s, rfl⟩
  | succ n ih =>
    obtain ⟨u, hu⟩ := h.consume_isSome (by omega)
    have hm := h.consume hu
    obtain ⟨-, x, y, -, -, rfl⟩ := State.consume_cases hu
    obtain ⟨t, ht⟩ := ih hm (by simp only; omega)
    exact ⟨t, by unfold State.consumeN; rw [hu]; exact ht⟩

end Sys2Proof.Machine
end

section
/-! SUPPORT. LenCode and DistCode on their domains (R140 to R143): they answer there, and what they
answer is a symbol with an extra value its row of the partition admits. -/

namespace Sys2Proof.Machine

/-! ## The largest base -/

theorem getLast?_filter_range_spec {p : Nat → Bool} {n i : Nat}
    (h : ((List.range n).filter p).getLast? = some i) :
    i < n ∧ p i = true ∧ ∀ j, i < j → j < n → p j = false := by
  induction n with
  | zero => simp at h
  | succ n ih =>
    rw [List.range_succ, List.filter_append, List.filter_singleton] at h
    cases hp : p n with
    | true =>
      simp only [hp, cond_true, List.getLast?_concat, Option.some.injEq] at h
      subst h
      exact ⟨Nat.lt_succ_self _, hp, fun j h1 h2 => by omega⟩
    | false =>
      simp only [hp, cond_false, List.append_nil] at h
      obtain ⟨h1, h2, h3⟩ := ih h
      refine ⟨by omega, h2, fun j hj1 hj2 => ?_⟩
      rcases Nat.lt_succ_iff_lt_or_eq.1 hj2 with hj | rfl
      · exact h3 j hj1 hj
      · exact hp

/-- The row a value falls in: its base is not above it, and the next row's base is. -/
theorem largestBase_spec {bases : List Nat} {n v i : Nat} (h : largestBase bases n v = some i) :
    i < n ∧ bases.getD i 0 ≤ v ∧ (i + 1 < n → v < bases.getD (i + 1) 0) := by
  obtain ⟨h1, h2, h3⟩ := getLast?_filter_range_spec h
  refine ⟨h1, by simpa using h2, fun hn => ?_⟩
  have hnext := h3 (i + 1) (Nat.lt_succ_self i) hn
  simpa using hnext

theorem largestBase_isSome {bases : List Nat} {n v : Nat} (hn : 0 < n) (h : bases.getD 0 0 ≤ v) :
    ∃ i, largestBase bases n v = some i := by
  unfold largestBase
  rw [← Option.isSome_iff_exists, List.getLast?_isSome]
  exact List.ne_nil_of_mem (List.mem_filter.2 ⟨List.mem_range.2 hn, by simpa using h⟩)

/-! ## LenCode -/

/-- Each row of the length partition ends where the next begins (R141). -/
theorem lenBase_succ : ∀ i < 27, lenBase.getD (i + 1) 0 = lenBase.getD i 0 + 2 ^ lenExtra.getD i 0 := by
  decide

theorem lenCode_max : lenCode 258 = some ⟨285, 0, 0⟩ := rfl

/-- Below the greatest length LenCode answers the row of the largest base (R140). -/
theorem lenCode_of_lt {l : Nat} (h1 : 3 ≤ l) (h2 : l < 258) :
    lenCode l = (largestBase lenBase 28 l).map fun i =>
      ⟨257 + i, l - lenBase.getD i 0, lenExtra.getD i 0⟩ := by
  have hdom : ¬ (l < Config.minMatch ∨ Config.maxMatch < l) := by
    simp only [Config.minMatch, Config.maxMatch]; omega
  have hmax : ¬ l = Config.maxMatch := Nat.ne_of_lt h2
  unfold lenCode
  rw [if_neg hdom, if_neg hmax]

theorem lenCode_domain {l : Nat} {c : SymCode} (h : lenCode l = some c) : 3 ≤ l ∧ l ≤ 258 := by
  unfold lenCode at h
  split at h
  · simp at h
  · rename_i hdom
    simp only [Config.minMatch, Config.maxMatch] at hdom
    omega

theorem lenCode_isSome {l : Nat} (h1 : 3 ≤ l) (h2 : l ≤ 258) : ∃ c, lenCode l = some c := by
  rcases Nat.lt_or_eq_of_le h2 with h | rfl
  · obtain ⟨i, hi⟩ := largestBase_isSome (bases := lenBase) (n := 28) (v := l) (by decide) h1
    exact ⟨_, by rw [lenCode_of_lt h1 h, hi]; rfl⟩
  · exact ⟨_, lenCode_max⟩

/-- The extra value fits its row: up to length 257 the row ends before the next base. -/
theorem lenCode_extra_lt {l i : Nat} (hl : l < 258) (hi : largestBase lenBase 28 l = some i) :
    l - lenBase.getD i 0 < 2 ^ lenExtra.getD i 0 := by
  obtain ⟨hn, hlo, hhi⟩ := largestBase_spec hi
  rcases Nat.lt_succ_iff_lt_or_eq.1 hn with h27 | rfl
  · have hstep := lenBase_succ i h27
    have hnext := hhi (by omega)
    omega
  · have hb : lenBase.getD 27 0 = 227 := rfl
    have he : lenExtra.getD 27 0 = 5 := rfl
    rw [hb, he]
    omega

theorem lenOk_of_lenCode {l : Nat} {c : SymCode} (h : lenCode l = some c) :
    lenOk c.sym c.xv c.xb = true := by
  obtain ⟨h1, h2⟩ := lenCode_domain h
  rcases Nat.lt_or_eq_of_le h2 with hl | rfl
  · rw [lenCode_of_lt h1 hl, Option.map_eq_some_iff] at h
    obtain ⟨i, hi, rfl⟩ := h
    obtain ⟨hn, hlo, -⟩ := largestBase_spec hi
    have hsym : 257 + i - 257 = i := by omega
    simp only [lenOk, lengthOf, hsym, lenCode_extra_lt hl hi, Bool.and_eq_true, decide_eq_true_eq,
      and_true]
    omega
  · rw [← Option.some.inj (lenCode_max.symm.trans h)]
    decide

/-! ## DistCode -/

/-- Each row of the distance partition ends where the next begins (R143). -/
theorem distBase_succ :
    ∀ i < 29, distBase.getD (i + 1) 0 = distBase.getD i 0 + 2 ^ distExtra.getD i 0 := by decide

/-- On its domain DistCode answers the row of the largest base (R142). -/
theorem distCode_of_le {d : Nat} (h1 : 1 ≤ d) (h2 : d ≤ 32768) :
    distCode d = (largestBase distBase 30 d).map fun i =>
      ⟨i, d - distBase.getD i 0, distExtra.getD i 0⟩ := by
  have hdom : ¬ (d < 1 ∨ Config.maxBackrefDist < d) := by
    simp only [Config.maxBackrefDist]; omega
  exact if_neg hdom

theorem distCode_domain {d : Nat} {c : SymCode} (h : distCode d = some c) : 1 ≤ d ∧ d ≤ 32768 := by
  unfold distCode at h
  split at h
  · simp at h
  · rename_i hdom
    simp only [Config.maxBackrefDist] at hdom
    omega

theorem distCode_isSome {d : Nat} (h1 : 1 ≤ d) (h2 : d ≤ 32768) : ∃ c, distCode d = some c := by
  obtain ⟨i, hi⟩ := largestBase_isSome (bases := distBase) (n := 30) (v := d) (by decide) h1
  exact ⟨_, by rw [distCode_of_le h1 h2, hi]; rfl⟩

/-- The extra value fits its row: the last row ends at 32768, every other before the next base. -/
theorem distCode_extra_lt {d i : Nat} (hd : d ≤ 32768) (hi : largestBase distBase 30 d = some i) :
    d - distBase.getD i 0 < 2 ^ distExtra.getD i 0 := by
  obtain ⟨hn, hlo, hhi⟩ := largestBase_spec hi
  rcases Nat.lt_succ_iff_lt_or_eq.1 hn with h29 | rfl
  · have hstep := distBase_succ i h29
    have hnext := hhi (by omega)
    omega
  · have hb : distBase.getD 29 0 = 24577 := rfl
    have he : distExtra.getD 29 0 = 13 := rfl
    rw [hb, he]
    omega

theorem distOk_of_distCode {d : Nat} {c : SymCode} (h : distCode d = some c) :
    distOk c.sym c.xv c.xb = true := by
  obtain ⟨h1, h2⟩ := distCode_domain h
  rw [distCode_of_le h1 h2, Option.map_eq_some_iff] at h
  obtain ⟨i, hi, rfl⟩ := h
  obtain ⟨hn, -, -⟩ := largestBase_spec hi
  simp only [distOk, distCode_extra_lt h2 hi, Bool.and_eq_true, decide_eq_true_eq, and_true]
  omega

/-! ## Ranges of the symbols -/

theorem sym_lt_of_lenOk {sym xv xb : Nat} (h : lenOk sym xv xb = true) : sym < 286 := by
  simp only [lenOk, Bool.and_eq_true, decide_eq_true_eq] at h
  omega

theorem sym_lt_of_distOk {sym xv xb : Nat} (h : distOk sym xv xb = true) : sym < 30 := by
  simp only [distOk, Bool.and_eq_true, decide_eq_true_eq] at h
  omega

end Sys2Proof.Machine
end

section
/-! SUPPORT. Every step answers a next state (R52, R72): no read of FIND_BEST_MATCH or CONSUME leaves the
window, no length or distance leaves its table, and no legal command is refused. -/

namespace Sys2Proof.Machine

/-! ## FIND_BEST_MATCH -/

theorem StoreInv.matchFrom_isSome {s : State} (h : StoreInv s) {q p n k : Nat} (hq : s.wstart ≤ q)
    (hqp : q ≤ p) (hr : p + k + n ≤ s.r) : ∃ m, s.matchFrom q p n k = some m := by
  induction n generalizing k with
  | zero => exact ⟨k, rfl⟩
  | succ n ih =>
    obtain ⟨a, ha⟩ := h.winRead_isSome (q := q + k) (by omega) (by omega)
    obtain ⟨b, hb⟩ := h.winRead_isSome (q := p + k) (by omega) (by omega)
    obtain ⟨m, hm⟩ := ih (k := k + 1) (by omega)
    unfold State.matchFrom
    rw [ha, hb]
    simp only
    split
    · exact ⟨m, hm⟩
    · exact ⟨k, rfl⟩

theorem StoreInv.scan_isSome {s : State} (h : StoreInv s) {p cap : Nat} (hr : p + cap ≤ s.r)
    {l : List Nat} (hl : ∀ q ∈ l, s.wstart ≤ q ∧ q ≤ p) (best : Candidate) :
    ∃ c, s.scan p cap l best = some c := by
  induction l generalizing best with
  | nil => exact ⟨best, rfl⟩
  | cons q l ih =>
    obtain ⟨hq, hqp⟩ := hl q (List.mem_cons_self ..)
    obtain ⟨k, hk⟩ := h.matchFrom_isSome hq hqp (k := 0) (n := cap) (by omega)
    unfold State.scan
    rw [hk]
    simp only
    generalize (if best.length < k then (⟨k, p - q⟩ : Candidate) else best) = best'
    split
    · exact ⟨_, rfl⟩
    · exact ih (fun q hq => hl q (List.mem_cons_of_mem _ hq)) _

/-- The candidates of a key stand in the window, before the cursor. -/
theorem IndexExact.mem_get {s : State} (h : IndexExact s) {k : Key} {q : Nat}
    (hq : q ∈ s.pindex.get k) : s.wstart ≤ q ∧ q < s.p := by
  rw [h.exact, s.indexSpec_eq] at hq
  obtain ⟨h1, h2, -, -⟩ := State.mem_keyed hq
  exact ⟨h1, h2⟩

theorem IndexExact.findBestMatch_isSome {s : State} (h : IndexExact s) (hm : StoreInv s)
    (hp : s.p ≤ s.r) : ∃ c, s.findBestMatch s.p s.avail = some c := by
  have hav : s.avail = s.r - s.p := rfl
  unfold State.findBestMatch
  split
  · exact ⟨_, rfl⟩
  · rename_i hlook
    simp only [Config.minLookahead, Nat.not_lt] at hlook
    obtain ⟨key, hkey⟩ := hm.keyAt_isSome (q := s.p) (windowStart_le _) (by omega)
    obtain ⟨c, hc⟩ := hm.scan_isSome (p := s.p) (cap := min Config.maxMatch s.avail)
      (l := s.pindex.get key) (by omega)
      (fun q hq => ⟨(h.mem_get hq).1, (h.mem_get hq).2.le⟩) ⟨0, 0⟩
    rw [hkey]
    simp only [hc]
    split
    · exact ⟨_, rfl⟩
    · exact ⟨_, rfl⟩

/-- A match found through an exact index lies 1 to 32768 bytes back (R142, R150). -/
theorem IndexExact.findBestMatch_distance {s : State} (h : IndexExact s) {c : Candidate}
    (hc : s.findBestMatch s.p s.avail = some c) (hl : 0 < c.length) :
    1 ≤ c.distance ∧ c.distance ≤ 32768 := by
  rcases State.findBestMatch_cases hc with rfl | ⟨key, q, hq, -, -, -, -, hd⟩
  · simp at hl
  · obtain ⟨h1, h2⟩ := h.mem_get hq
    have hw : s.wstart = s.p - 32768 := windowStart_eq _
    omega

/-! ## ENCODE_STEP -/

theorem State.advance_next {s t : State} {n : Nat} (h : State.consumeN n s = some t) :
    s.advance n = .next t.flushTrigger := by
  unfold State.advance
  rw [h]

theorem StoreInv.advance_next {s : State} (h : StoreInv s) {n : Nat} (hn : s.p + n ≤ s.r) :
    ∃ t, s.advance n = .next t := by
  obtain ⟨u, hu⟩ := h.consumeN_isSome hn
  exact ⟨_, State.advance_next hu⟩

theorem IndexExact.encodeMatch_next {s : State} (h : IndexExact s) (hm : StoreInv s) {c : Candidate}
    (hc : s.findBestMatch s.p s.avail = some c) (hl : 3 ≤ c.length) :
    ∃ t, s.encodeMatch c = .next t := by
  obtain ⟨-, hmax, hav⟩ := State.findBestMatch_length hc (by omega)
  obtain ⟨hd1, hd2⟩ := h.findBestMatch_distance hc (by omega)
  obtain ⟨l, hlc⟩ := lenCode_isSome hl hmax
  obtain ⟨d, hdc⟩ := distCode_isSome hd1 hd2
  have hroom : s.p + c.length ≤ s.r := by unfold State.avail at hav; omega
  unfold State.encodeMatch
  rw [hlc, hdc]
  simp only
  split
  · exact ⟨_, rfl⟩
  · exact StoreInv.advance_next (s := s.recordPair l d) hm hroom

theorem StoreInv.encodeLiteral_next {s : State} (h : StoreInv s) (hp : s.p < s.r) :
    ∃ t, s.encodeLiteral = .next t := by
  obtain ⟨b, hb⟩ := h.winRead_isSome (q := s.p) (windowStart_le _) hp
  unfold State.encodeLiteral
  rw [hb]
  simp only
  split
  · exact ⟨_, rfl⟩
  · exact StoreInv.advance_next (s := s.recordLit b) h hp

theorem IndexExact.encodeStep_next {s : State} (h : IndexExact s) (hm : StoreInv s) (hp : s.p < s.r) :
    ∃ t, s.encodeStep = .next t := by
  obtain ⟨c, hc⟩ := h.findBestMatch_isSome hm hp.le
  unfold State.encodeStep
  rw [hc]
  simp only
  split
  · exact h.encodeMatch_next hm hc ‹_›
  · exact hm.encodeLiteral_next hp

theorem IndexExact.coreTurn_next {s : State} (h : IndexExact s) (hm : StoreInv s) :
    ∃ t, s.coreTurn = .next t := by
  rcases s.enabledStep_cases with ⟨he, -, hp, -⟩ | ⟨he, -⟩ | ⟨he, -⟩ | ⟨he, -⟩ | he
  · rw [State.coreTurn_encode he]; exact h.encodeStep_next hm hp
  · exact ⟨_, State.coreTurn_finish he⟩
  · exact ⟨_, State.coreTurn_flush he⟩
  · exact ⟨_, State.coreTurn_drain he⟩
  · exact ⟨_, State.coreTurn_stalled he⟩

/-! ## Commands -/

theorem execPush_next (b : Byte) (s : State) : ∃ t, execPush b s = .next t := by
  unfold execPush
  split_ifs <;> exact ⟨_, rfl⟩

theorem execEoi_next (s : State) : ∃ t, execEoi s = .next t := by
  unfold execEoi
  split_ifs <;> exact ⟨_, rfl⟩

theorem execPop_next (s : State) : ∃ t, execPop s = .next t := by
  unfold execPop
  split <;> exact ⟨_, rfl⟩

theorem execAbort_next (s : State) : ∃ t, execAbort s = .next t := by
  unfold execAbort
  split_ifs <;> exact ⟨_, rfl⟩

/-- Every command answers (R300). -/
theorem CommandWord.exec_next {n : Nat} {i : Instr} (h : CommandWord n i) (s : State) :
    ∃ t, exec i s = .next t := by
  cases h with
  | push b => exact execPush_next b s
  | eoi => exact execEoi_next s
  | pop => exact execPop_next s
  | abort => exact execAbort_next s
  | _ => exact ⟨_, rfl⟩

theorem step_cmd_next {s : State} {w : CmdWord} (h : s.nextTurn = .cmd w) : ∃ t, step s = .next t := by
  cases hd : decodeCmd w with
  | error e => exact ⟨_, step_cmd_error h hd⟩
  | ok i => rw [step_cmd_ok h hd]; exact (decodeCmd_word hd).exec_next _

/-! ## Every step -/

theorem State.agentsOnly.nextTurn {s : State} (h : s.agentsOnly) : s.nextTurn.isElem = false := by
  unfold State.nextTurn
  cases ht : s.turns with
  | nil => rfl
  | cons x rest => exact h x (by rw [ht]; exact List.mem_cons_self ..)

/-- Where the store and the index are exact, every turn of the spec's agents answers a next state. -/
theorem IndexExact.step_next {s : State} (h : IndexExact s) (hm : StoreInv s) (ha : s.agentsOnly) :
    ∃ t, step s = .next t := by
  cases hx : s.nextTurn with
  | cmd w => exact step_cmd_next hx
  | core => rw [step_core hx]; exact IndexExact.coreTurn_next (s := s.takeTurn) ⟨h.canonical, h.exact⟩ hm
  | rst => exact ⟨_, step_rst hx⟩
  | elem c => have he := ha.nextTurn; rw [hx] at he; simp [Turn.isElem] at he

end Sys2Proof.Machine
end

section
/-! SUPPORT. The invariants of the input (R52 (1), (3), R25, R152) under every step: what a step does to
the window is said once, and each invariant follows from that. -/

namespace Sys2Proof.Machine

/-! ## When the core's steps are enabled -/

theorem State.guard_of_encode {s : State} (h : s.enabledStep = some .encodeStep) :
    s.phase = .encode ∧ s.p < s.r ∧ (s.eoi = true ∨ 260 ≤ s.avail) := by
  simpa [h] using s.enabledStep_cases

theorem State.guard_of_drain {s : State} (h : s.enabledStep = some .drainByte) :
    (s.phase = .drain ∨ s.phase = .drainFinal) ∧ 8 ≤ s.bitq.length ∧ s.oq.length < Config.oqDepth := by
  simpa [h] using s.enabledStep_cases

theorem State.guard_of_finish {s : State} (h : s.enabledStep = some .finish) :
    s.phase = .encode ∧ s.eoi = true ∧ s.p = s.r := by
  simpa [h] using s.enabledStep_cases

/-! ## What a step does to the window -/

/-- Everything a step can do to the cursor, the count, the store and the index. -/
inductive WindowEffect (s : State) : State → Prop where
  /-- None of them changes; the end of input is not taken back. -/
  | same {t : State} (h : SameWindow s t) (he : t.eoi = false → s.eoi = false) : WindowEffect s t
  /-- A reset. -/
  | reset {t : State} (h : SameWindow State.reset t) : WindowEffect s t
  /-- A PUSH is accepted. -/
  | accept {t : State} (b : Byte) (he : s.eoi = false) (hl : s.avail < Config.laCap)
      (h : SameWindow (s.acceptByte b) t) : WindowEffect s t
  /-- An ENCODE_STEP consumes `n` bytes; before the end of input it had 260 bytes to look at (R281). -/
  | consume {s' u t : State} (n : Nat) (hs : SameWindow s s') (hu : State.consumeN n s' = some u)
      (ht : SameWindow u t) (hpos : 0 < n) (hmax : n ≤ 258)
      (hlook : t.eoi = true ∨ 260 ≤ s.avail) : WindowEffect s t

theorem SameWindow.flushTrigger (s : State) : SameWindow s s.flushTrigger := by
  rw [State.flushTrigger_eq]
  exact ⟨rfl, rfl, rfl, rfl⟩

theorem SameWindow.flushStep (s : State) : SameWindow s s.flushStep := by
  rcases State.flushStep_cases s with ⟨c, -, h⟩ | ⟨w, -, h⟩ <;> rw [h] <;>
    constructor <;> simp

theorem SameWindow.finishStep (s : State) : SameWindow s s.finishStep := by
  rcases State.finishStep_cases s with ⟨-, h⟩ | ⟨-, ⟨c, -, h⟩ | ⟨w, -, h⟩⟩ <;> rw [h] <;>
    constructor <;> simp

theorem CommandEffect.window {w : CmdWord} {s t : State} (h : CommandEffect w s.takeTurn t) :
    WindowEffect s t := by
  cases h with
  | respond v => exact .same ⟨rfl, rfl, rfl, rfl⟩ id
  | fault c _ => exact .same ⟨rfl, rfl, rfl, rfl⟩ id
  | accept b _ _ he hl _ => exact .accept b he hl ⟨rfl, rfl, rfl, rfl⟩
  | ended _ _ => exact .same ⟨rfl, rfl, rfl, rfl⟩ (fun h => absurd h (by simp))
  | popped e rest _ _ => exact .same ⟨rfl, rfl, rfl, rfl⟩ id
  | reset _ => exact .reset ⟨rfl, rfl, rfl, rfl⟩

theorem ElementEffect.window {s t : State} (h : ElementEffect s.takeTurn t) : WindowEffect s t := by
  cases h <;> exact .same ⟨rfl, rfl, rfl, rfl⟩ id

theorem State.encodeStep_window {s t : State} (hlook : t.eoi = true ∨ 260 ≤ s.avail)
    (h : s.takeTurn.encodeStep = .next t) : WindowEffect s t := by
  obtain ⟨c, hc, ⟨-, rfl⟩ | ⟨-, h3, l, d, u, -, -, hu, rfl⟩ | ⟨-, -, b, u, -, hu, rfl⟩⟩ :=
    State.encodeStep_cases h
  · exact .same ⟨rfl, rfl, rfl, rfl⟩ id
  · obtain ⟨-, hmax, -⟩ := State.findBestMatch_length hc (by omega)
    exact .consume (s' := s.takeTurn.recordPair l d) c.length ⟨rfl, rfl, rfl, rfl⟩ hu
      (SameWindow.flushTrigger u) (by omega) hmax hlook
  · exact .consume (s' := s.takeTurn.recordLit b) 1 ⟨rfl, rfl, rfl, rfl⟩ hu
      (SameWindow.flushTrigger u) (by omega) (by omega) hlook

theorem CoreEffect.window {s t : State} (h : CoreEffect s.takeTurn t) : WindowEffect s t := by
  have heoi := h.sameInput.eoi
  cases h with
  | stall _ => exact .same ⟨rfl, rfl, rfl, rfl⟩ id
  | flush _ =>
    obtain ⟨h1, h2, h3, h4⟩ := SameWindow.flushStep s.takeTurn
    exact .same ⟨h1, h2, h3, h4⟩ fun h => heoi ▸ h
  | drain _ => exact .same ⟨rfl, rfl, rfl, rfl⟩ id
  | finish _ =>
    obtain ⟨h1, h2, h3, h4⟩ := SameWindow.finishStep s.takeTurn
    exact .same ⟨h1, h2, h3, h4⟩ fun h => heoi ▸ h
  | encode _ he ht =>
    obtain ⟨-, -, hlook⟩ := State.guard_of_encode he
    exact State.encodeStep_window (hlook.imp_left heoi.trans) ht

theorem step_window {s t : State} (h : step s = .next t) : WindowEffect s t := by
  cases step_effect h with
  | command w _ _ hc => exact hc.window
  | core _ _ hc => exact hc.window
  | rst _ => exact .reset ⟨rfl, rfl, rfl, rfl⟩
  | element c _ i _ _ he => exact he.window

/-! ## The invariants of the input -/

theorem reset_cursorInv : CursorInv State.reset := ⟨le_rfl, Nat.zero_le _⟩

theorem reset_storeInv : StoreInv State.reset := rfl

theorem reset_indexExact : IndexExact State.reset := ⟨reset_pindex_wf, fun _ => rfl⟩

/-- R52 (1). -/
theorem WindowEffect.cursorInv {s t : State} (h : WindowEffect s t) (hc : CursorInv s) :
    CursorInv t := by
  cases h with
  | same h _ => exact h.cursorInv hc
  | reset h => exact h.cursorInv reset_cursorInv
  | accept b _ hl h =>
    obtain ⟨hp, -⟩ := hc
    refine h.cursorInv ⟨?_, ?_⟩
    · exact Nat.le_succ_of_le hp
    · simp only [State.avail, State.acceptByte_p, State.acceptByte_r] at hl ⊢
      omega
  | consume n hs hu ht hpos _ _ =>
    obtain ⟨-, hlook⟩ := hs.cursorInv hc
    obtain ⟨hp, hle, hr⟩ := State.consumeN_p hu
    refine ht.cursorInv ⟨by rw [hr]; exact hle hpos, ?_⟩
    unfold State.avail at hlook ⊢
    omega

/-- R25. -/
theorem WindowEffect.storeInv {s t : State} (h : WindowEffect s t) (hc : CursorInv s)
    (hm : StoreInv s) : StoreInv t := by
  cases h with
  | same h _ => exact h.storeInv hm
  | reset h => exact h.storeInv reset_storeInv
  | accept b _ _ h => exact h.storeInv (hm.acceptByte hc.cursor b)
  | consume n hs hu ht _ _ _ =>
    exact ht.storeInv
      (State.consumeN_induct (P := StoreInv) (fun _ _ h => h.consume) (hs.storeInv hm) hu)

theorem WindowEffect.indexExact {s t : State} (h : WindowEffect s t) (hx : IndexInv s) :
    IndexExact t := by
  cases h with
  | same h _ => exact h.indexExact hx.indexExact
  | reset h => exact h.indexExact reset_indexExact
  | accept b he _ h => exact h.indexExact (hx.acceptByte_exact he b)
  | consume n hs hu ht _ _ _ =>
    exact ht.indexExact
      (State.consumeN_induct (P := IndexExact) (fun _ _ h => h.consume) (hs.indexExact hx.indexExact) hu)

/-- Before the end of input a step looks at 260 bytes and consumes at most 258 of them (R281). -/
theorem WindowEffect.received {s t : State} (h : WindowEffect s t) (hx : IndexInv s)
    (ht : t.eoi = false) : t.p = 0 ∨ t.p + 2 ≤ t.r := by
  cases h with
  | same h he => rw [h.p, h.r]; exact hx.received (he ht)
  | reset h => exact .inl h.p
  | accept b he _ h =>
    rw [h.p, h.r]
    exact (hx.received he).imp id Nat.le_succ_of_le
  | consume n hs hu hut _ hmax hlook =>
    obtain ⟨hp, -, hr⟩ := State.consumeN_p hu
    rcases hlook with hl | hl
    · rw [ht] at hl; simp at hl
    · unfold State.avail at hl
      rw [hut.p, hut.r, hp, hr, hs.p, hs.r]
      omega

/-- R52 (3), R152. -/
theorem WindowEffect.indexInv {s t : State} (h : WindowEffect s t) (hx : IndexInv s) : IndexInv t where
  canonical := (h.indexExact hx).canonical
  exact := (h.indexExact hx).exact
  received := h.received hx

end Sys2Proof.Machine
end

section
/-! SUPPORT. The invariants of the open block, the bit queue and the output (R52 (4) to (8), R27, R285,
R287, R341) under every step, and with them O59. -/

namespace Sys2Proof.Machine

/-! ## What an ENCODE_STEP does to the open block -/

/-- Two states with the same phase, open block, bit queue and output FIFO. -/
structure SameBlock (s t : State) : Prop where
  phase : t.phase = s.phase
  sym : t.sym = s.sym
  symcount : t.symcount = s.symcount
  freqLL : t.freqLL = s.freqLL
  freqD : t.freqD = s.freqD
  bitq : t.bitq = s.bitq
  oq : t.oq = s.oq

/-- Everything an ENCODE_STEP can do to the open block (R282, R283, R348): fault, or record a match or a
literal where there is room, and mark a full block for FLUSH. -/
inductive EncodeEffect (s : State) : State → Prop where
  | overflow : EncodeEffect s (s.raise .symbufOverflow)
  | pair {t : State} (l d : SymCode) (hl : lenOk l.sym l.xv l.xb = true)
      (hd : distOk d.sym d.xv d.xb = true) (hroom : s.sym.length ≤ 800000)
      (h : SameBlock (s.recordPair l d).flushTrigger t) : EncodeEffect s t
  | literal {t : State} (b : Byte) (hroom : s.sym.length ≤ 800000)
      (h : SameBlock (s.recordLit b).flushTrigger t) : EncodeEffect s t

/-- CONSUME leaves the open block alone. -/
theorem State.consumeN_sameBlock {n : Nat} {s t : State} (h : State.consumeN n s = some t) :
    SameBlock s.flushTrigger t.flushTrigger := by
  rw [State.flushTrigger_eq, State.flushTrigger_eq, State.consumeN_frame h]
  exact ⟨rfl, rfl, rfl, rfl, rfl, rfl, rfl⟩

theorem State.symbufFull_false_iff (s : State) : s.symbufFull = false ↔ s.sym.length ≤ 800000 := by
  unfold State.symbufFull
  rw [decide_eq_false_iff_not]
  simp only [Config.maxBlockSize]
  omega

theorem State.encodeStep_effect {s t : State} (h : s.encodeStep = .next t) : EncodeEffect s t := by
  obtain ⟨c, -, ⟨-, rfl⟩ | ⟨hf, -, l, d, u, hl, hd, hu, rfl⟩ | ⟨hf, -, b, u, -, hu, rfl⟩⟩ :=
    State.encodeStep_cases h
  · exact .overflow
  · exact .pair l d (lenOk_of_lenCode hl) (distOk_of_distCode hd) ((s.symbufFull_false_iff).1 hf)
      (State.consumeN_sameBlock hu)
  · exact .literal b ((s.symbufFull_false_iff).1 hf) (State.consumeN_sameBlock hu)

/-! ## What FLUSH and FINISH do to the open block -/

/-- What FLUSH and FINISH do to the open block (R284, R286): the tables fault, or at least 8 bits are
appended, the block is cleared and `p` is the next phase; the final block ends at a byte boundary. -/
inductive WriteEffect (p : Phase) (s : State) : State → Prop where
  | fault {t : State} (c : FaultCode) (h : SameBlock (s.raise c) t) : WriteEffect p s t
  | written {t : State} (l : List Bool) (h8 : 8 ≤ l.length)
      (hpad : p = .drainFinal → (s.bitq ++ l).length % 8 = 0)
      (h : SameBlock { s.afterBlock with phase := p, bitq := s.bitq ++ l } t) : WriteEffect p s t

/-- The EOB code of the fixed table has 7 bits (R241). -/
theorem fixedTables_lenLL_eob : (entry fixedTables.lenLL 256).toNat = 7 := by
  show (entry (packTable 4 288 fixedLenLL) 256).toNat = 7
  rw [entry_packTable _ (by decide)]
  decide

theorem length_payloadBits_ge (t : CodeTables) (sym : List Sym) :
    (entry t.lenLL 256).toNat ≤ (payloadBits t sym).length := by
  unfold payloadBits
  rw [List.length_append, length_llBits]
  omega

/-- The bits of a fixed block: header and payload, the EOB code in it. -/
theorem length_fixedBits_ge (f : Nat) (sym : List Sym) :
    8 ≤ (headerBits f 1 ++ payloadBits fixedTables sym).length := by
  have hp := length_payloadBits_ge fixedTables sym
  rw [fixedTables_lenLL_eob] at hp
  rw [List.length_append, length_headerBits]
  omega

/-- The bits of a dynamic block: its header alone is longer than a byte. -/
theorem length_dynamicBits_ge (f : Nat) (w : Work) (sym : List Sym) :
    8 ≤ (headerBits f 2 ++ tableBits w ++ payloadBits w.tables sym).length := by
  have ht := length_tableBits_ge w
  simp only [List.length_append]
  omega

theorem State.flushStep_effect (s : State) : WriteEffect .drain s s.flushStep := by
  rcases State.flushStep_cases s with ⟨c, -, h⟩ | ⟨w, -, h⟩
  · refine .fault c ?_
    rw [h]
    constructor <;> simp
  · refine .written _ (length_dynamicBits_ge (0 : BitVec 1).toNat w s.sym) (by simp) ?_
    rw [h]
    constructor <;> simp

/-- A final block padded to a byte boundary (R286), from the state `u` its writer leaves. -/
theorem WriteEffect.of_padded {s u : State} {l : List Bool} (hb : u.bitq = s.bitq ++ l)
    (ho : u.oq = s.oq) (hl : 8 ≤ l.length) :
    WriteEffect .drainFinal s
      ({ u.padToByte.afterBlock with phase := .drainFinal } : State).freeWork := by
  refine .written (l ++ List.replicate (padLength u.bitq.length) false) ?_ (fun _ => ?_) ?_
  · rw [List.length_append]; omega
  · rw [← List.append_assoc, ← hb, List.length_append, List.length_replicate]
    exact add_padLength_mod _
  · constructor <;> simp [hb, ho]

theorem State.finishStep_effect (s : State) : WriteEffect .drainFinal s s.finishStep := by
  rcases State.finishStep_cases s with ⟨-, h⟩ | ⟨-, ⟨c, -, h⟩ | ⟨w, -, h⟩⟩ <;> rw [h]
  · refine .of_padded (l := headerBits (1 : BitVec 1).toNat 1 ++ payloadBits fixedTables s.sym) ?_ rfl
      (length_fixedBits_ge _ _)
    rw [State.writeFixedBlock_bitq, List.append_assoc]
  · refine .fault c ?_
    constructor <;> simp
  · refine .of_padded
      (l := headerBits (1 : BitVec 1).toNat 2 ++ tableBits w ++ payloadBits w.tables s.sym) ?_ rfl
      (length_dynamicBits_ge _ _ _)
    rw [State.writeDynamicWith_bitq, List.append_assoc]

/-! ## Sequences of Symbols -/

theorem symsOk_append {l m : List Sym} (hl : symsOk l = true) (hm : symsOk m = true) :
    symsOk (l ++ m) = true := by
  induction l using symsOk.induct with
  | case1 => exact hm
  | case2 b rest ih => exact ih hl
  | case3 sym xv xb d dx db rest ih =>
    simp only [symsOk, Bool.and_eq_true, List.cons_append] at hl ⊢
    exact ⟨hl.1, ih hl.2⟩
  | case4 => simp [symsOk] at hl
  | case5 => simp [symsOk] at hl

theorem symsOk_lit (b : Byte) : symsOk [.lit b] = true := rfl

theorem symsOk_pair {l d : SymCode} (hl : lenOk l.sym l.xv l.xb = true)
    (hd : distOk d.sym d.xv d.xb = true) :
    symsOk [.len l.sym l.xv l.xb, .dist d.sym d.xv d.xb] = true := by
  simp [symsOk, hl, hd]

/-! ## R52 (4): the block buffer -/

theorem SymInv.congr {s t : State} (h : SymInv s) (hp : t.phase = s.phase) (hs : t.sym = s.sym)
    (hc : t.symcount = s.symcount) : SymInv t where
  count := by rw [hs, hc]; exact h.count
  bound := by rw [hs]; exact h.bound
  open_bound := by rw [hs, hp]; exact h.open_bound
  cleared := by rw [hs, hp]; exact h.cleared
  form := by rw [hs]; exact h.form

/-- In `FAULT` the block stays as it was. -/
theorem SymInv.fault {s t : State} (h : SymInv s) (hp : t.phase = .fault) (hs : t.sym = s.sym)
    (hc : t.symcount = s.symcount) : SymInv t where
  count := by rw [hs, hc]; exact h.count
  bound := by rw [hs]; exact h.bound
  open_bound := by simp [hp]
  cleared := by simp [hp]
  form := by rw [hs]; exact h.form

/-- A cleared block is one in every phase. -/
theorem SymInv.of_empty {t : State} (hs : t.sym = []) (hc : t.symcount = 0) : SymInv t := by
  constructor <;> rw [hs]
  · rw [hc]; rfl
  · exact Nat.zero_le _
  · exact fun _ => Nat.zero_le _
  · exact fun _ => rfl
  · rfl

/-- Recording one or two Symbols in a block with room, and marking it for FLUSH once it is full. -/
theorem SymInv.record {s t : State} (h : SymInv s) {l : List Sym} (hl : symsOk l = true)
    (hlen : l.length ≤ 2) (hroom : s.sym.length ≤ 800000) (hphase : s.phase = .encode)
    (hs : t.sym = s.sym ++ l) (hc : t.symcount.toNat = s.symcount.toNat + l.length)
    (hp : t.phase = if 800000 < t.symcount.toNat then .flush else s.phase) : SymInv t := by
  have hcount : t.symcount.toNat = t.sym.length := by
    rw [hc, hs, h.count, List.length_append]
  have hlength : t.sym.length = s.sym.length + l.length := by rw [hs, List.length_append]
  refine ⟨hcount, ?_, fun he => ?_, fun hcl => ?_, ?_⟩
  · simp only [Config.maxBlockSize]; omega
  · by_cases hfull : 800000 < t.symcount.toNat
    · rw [hp, if_pos hfull] at he; simp at he
    · simp only [Config.maxBlockSize]; omega
  · rw [hp, hphase] at hcl
    split at hcl <;> simp at hcl
  · rw [hs]; exact symsOk_append h.form hl

theorem CommandEffect.symInv {w : CmdWord} {s t : State} (h : CommandEffect w s t) (hs : SymInv s) :
    SymInv t := by
  cases h with
  | respond v => exact hs.congr rfl rfl rfl
  | fault c _ => exact hs.fault rfl rfl rfl
  | accept b _ _ _ _ _ => exact hs.congr rfl rfl rfl
  | ended _ _ => exact hs.congr rfl rfl rfl
  | popped e rest _ _ => exact hs.congr rfl rfl rfl
  | reset _ => exact .of_empty rfl rfl

theorem ElementEffect.symInv {s t : State} (h : ElementEffect s t) (hs : SymInv s) : SymInv t := by
  cases h with
  | bits l => exact hs.congr rfl rfl rfl
  | fixedBlock f => exact hs.congr rfl rfl rfl
  | dynamicBlock f w _ => exact hs.congr rfl rfl rfl
  | fault c _ => exact hs.fault rfl rfl rfl

/-- A count that has room does not wrap. -/
theorem toNat_add_one {w : Word} (h : w.toNat < 2 ^ 32 - 1) : (w + 1).toNat = w.toNat + 1 := by
  rw [BitVec.toNat_add, show (1 : Word).toNat = 1 from rfl]
  omega

theorem EncodeEffect.symInv {s t : State} (h : EncodeEffect s t) (hp : s.phase = .encode)
    (hs : SymInv s) : SymInv t := by
  have hcount := hs.count
  cases h with
  | overflow => exact hs.fault rfl rfl rfl
  | pair l d hl hd hroom h =>
    rw [State.flushTrigger_eq] at h
    refine hs.record (symsOk_pair hl hd) le_rfl hroom hp (by simpa using h.sym) ?_ (by
      rw [h.symcount]; exact h.phase)
    rw [h.symcount]
    have h1 : (s.symcount + 1).toNat = s.symcount.toNat + 1 := toNat_add_one (by omega)
    have h2 : (s.symcount + 1 + 1).toNat = s.symcount.toNat + 2 :=
      (toNat_add_one (by omega)).trans (by rw [h1])
    exact h2
  | literal b hroom h =>
    rw [State.flushTrigger_eq] at h
    refine hs.record (symsOk_lit b) (by simp) hroom hp (by simpa using h.sym) ?_ (by
      rw [h.symcount]; exact h.phase)
    rw [h.symcount]
    exact toNat_add_one (by omega)

theorem WriteEffect.symInv {p : Phase} {s t : State} (h : WriteEffect p s t) (hs : SymInv s) :
    SymInv t := by
  cases h with
  | fault c h => exact hs.fault h.phase h.sym h.symcount
  | written l _ _ h => exact .of_empty h.sym h.symcount

/-- A drain step finds the block cleared (R256). -/
theorem State.drainStep_symInv {s : State} (hp : s.phase = .drain ∨ s.phase = .drainFinal)
    (hs : SymInv s) : SymInv s.drainStep := by
  have hsym : s.sym = [] := hs.cleared (by tauto)
  have hcount : s.symcount = 0 := BitVec.eq_of_toNat_eq (by rw [hs.count, hsym]; rfl)
  exact .of_empty hsym hcount

theorem CoreEffect.symInv {s t : State} (h : CoreEffect s t) (hs : SymInv s) : SymInv t := by
  cases h with
  | stall _ => exact hs
  | encode _ he ht =>
    obtain ⟨hp, -, -⟩ := State.guard_of_encode he
    exact (State.encodeStep_effect ht).symInv hp hs
  | flush _ => exact s.flushStep_effect.symInv hs
  | drain he =>
    obtain ⟨hp, -, -⟩ := State.guard_of_drain he
    exact State.drainStep_symInv hp hs
  | finish _ => exact s.finishStep_effect.symInv hs

theorem step_symInv {s t : State} (h : step s = .next t) (hs : SymInv s) : SymInv t := by
  have hs' : SymInv s.takeTurn := hs.congr rfl rfl rfl
  cases step_effect h with
  | command w _ _ h => exact h.symInv hs'
  | core _ _ h => exact h.symInv hs'
  | rst _ => exact .of_empty rfl rfl
  | element c _ i _ _ h => exact h.symInv hs'

/-! ## R52 (5): the frequency tables -/

theorem FreqInv.congr {s t : State} (h : FreqInv s) (hs : t.sym = s.sym) (hll : t.freqLL = s.freqLL)
    (hd : t.freqD = s.freqD) : FreqInv t where
  ll := by rw [hs, hll]; exact h.ll
  d := by rw [hs, hd]; exact h.d

theorem FreqInv.of_empty {t : State} (hs : t.sym = []) (hll : t.freqLL = Vector.replicate 286 0)
    (hd : t.freqD = Vector.replicate 30 0) : FreqInv t where
  ll := by rw [hs, hll]; exact fun i _ => entry_replicate i
  d := by rw [hs, hd]; exact fun i _ => entry_replicate i

/-- Counting in 32 bits: one more `j` raises the count of `j` by 1 and no other. -/
theorem ofNat_count_concat (l : List (Option Nat)) (i j : Nat) :
    BitVec.ofNat 32 ((l ++ [some j]).count (some i)) =
      BitVec.ofNat 32 (l.count (some i)) + if i = j then 1 else 0 := by
  rw [List.count_append, List.count_singleton, BitVec.ofNat_add]
  by_cases h : i = j
  · subst h; simp
  · simp [h, Ne.symm h]

theorem FreqInv.recordLit {s : State} (h : FreqInv s) (b : Byte) : FreqInv (s.recordLit b) where
  ll i hi := by
    rw [State.recordLit_freqLL, State.recordLit_sym, List.map_append,
      entry_bump _ (Nat.lt_trans b.isLt (by decide)), h.ll i hi]
    exact (ofNat_count_concat _ i b.toNat).symm
  d i hi := by
    rw [State.recordLit_freqD, State.recordLit_sym, List.map_append, h.d i hi]
    simp [Sym.dId]

theorem FreqInv.recordPair {s : State} (h : FreqInv s) {l d : SymCode} (hl : l.sym < 286)
    (hd : d.sym < 30) : FreqInv (s.recordPair l d) where
  ll i hi := by
    rw [State.recordPair_freqLL, State.recordPair_sym, List.map_append, List.map_append,
      entry_bump _ hl, h.ll i hi, List.count_append]
    exact (ofNat_count_concat _ i l.sym).symm
  d i hi := by
    rw [State.recordPair_freqD, State.recordPair_sym, List.map_append, List.map_append,
      entry_bump _ hd, h.d i hi]
    refine Eq.trans ?_ (ofNat_count_concat _ i d.sym).symm
    simp [Sym.dId]

theorem CommandEffect.freqInv {w : CmdWord} {s t : State} (h : CommandEffect w s t) (hf : FreqInv s) :
    FreqInv t := by
  cases h with
  | reset _ => exact .of_empty rfl rfl rfl
  | _ => exact hf.congr rfl rfl rfl

theorem ElementEffect.freqInv {s t : State} (h : ElementEffect s t) (hf : FreqInv s) : FreqInv t := by
  cases h <;> exact hf.congr rfl rfl rfl

theorem EncodeEffect.freqInv {s t : State} (h : EncodeEffect s t) (hf : FreqInv s) : FreqInv t := by
  cases h with
  | overflow => exact hf.congr rfl rfl rfl
  | pair l d hl hd _ h =>
    rw [State.flushTrigger_eq] at h
    exact (hf.recordPair (sym_lt_of_lenOk hl) (sym_lt_of_distOk hd)).congr h.sym h.freqLL h.freqD
  | literal b _ h =>
    rw [State.flushTrigger_eq] at h
    exact (hf.recordLit b).congr h.sym h.freqLL h.freqD

theorem WriteEffect.freqInv {p : Phase} {s t : State} (h : WriteEffect p s t) (hf : FreqInv s) :
    FreqInv t := by
  cases h with
  | fault c h => exact hf.congr h.sym h.freqLL h.freqD
  | written l _ _ h => exact .of_empty h.sym h.freqLL h.freqD

theorem CoreEffect.freqInv {s t : State} (h : CoreEffect s t) (hf : FreqInv s) : FreqInv t := by
  cases h with
  | stall _ => exact hf
  | encode _ _ ht => exact (State.encodeStep_effect ht).freqInv hf
  | flush _ => exact s.flushStep_effect.freqInv hf
  | drain _ => exact hf.congr rfl rfl rfl
  | finish _ => exact s.finishStep_effect.freqInv hf

theorem step_freqInv {s t : State} (h : step s = .next t) (hf : FreqInv s) : FreqInv t := by
  have hf' : FreqInv s.takeTurn := hf.congr rfl rfl rfl
  cases step_effect h with
  | command w _ _ h => exact h.freqInv hf'
  | core _ _ h => exact h.freqInv hf'
  | rst _ => exact .of_empty rfl rfl rfl
  | element c _ i _ _ h => exact h.freqInv hf'

/-! ## R52 (6): the bit queue in each phase -/

/-- Fault entry empties the bit queue and the FIFO (R341). -/
theorem PhaseInv.of_fault {t : State} (hp : t.phase = .fault) (hb : t.bitq = []) (ho : t.oq = []) :
    PhaseInv t := by
  constructor <;> simp [hp, hb, ho]

/-- Before the final block is written, a tail of fewer than 8 bits is all that is asked. -/
theorem PhaseInv.of_tail {t : State} (hp : t.phase = .encode ∨ t.phase = .flush)
    (hb : t.bitq.length < 8) : PhaseInv t := by
  constructor <;> rcases hp with hp | hp <;> simp [hp, hb]

theorem PhaseInv.of_drain {t : State} (hp : t.phase = .drain) (hb : 8 ≤ t.bitq.length) :
    PhaseInv t := by
  constructor <;> simp [hp, hb]

theorem PhaseInv.of_drainFinal {t : State} (hp : t.phase = .drainFinal) (hb : 8 ≤ t.bitq.length)
    (hmod : t.bitq.length % 8 = 0) (he : t.eoi = true) (hpr : t.p = t.r) : PhaseInv t := by
  constructor <;> simp [hp, hb, hmod, he, hpr]

theorem PhaseInv.of_done {t : State} (hp : t.phase = .done) (hb : t.bitq = []) (he : t.eoi = true)
    (hpr : t.p = t.r) : PhaseInv t := by
  constructor <;> simp [hp, hb, he, hpr]

theorem CommandEffect.phaseInv {w : CmdWord} {s t : State} (h : CommandEffect w s t)
    (hi : PhaseInv s) : PhaseInv t := by
  obtain ⟨htail, hdrain, hfinal, hdone, hstop, hended⟩ := hi
  cases h with
  | respond v => exact ⟨htail, hdrain, hfinal, hdone, hstop, hended⟩
  | fault c _ => exact .of_fault rfl rfl rfl
  | accept b _ _ he _ _ =>
    refine ⟨htail, hdrain, hfinal, hdone, hstop, fun hp => ?_⟩
    have heoi := (hended hp).1
    rw [he] at heoi
    simp at heoi
  | ended _ _ => exact ⟨htail, hdrain, hfinal, hdone, hstop, fun hp => ⟨rfl, (hended hp).2⟩⟩
  | popped e rest _ hq =>
    refine ⟨htail, hdrain, hfinal, hdone, fun hp => ?_, hended⟩
    have hempty := (hstop hp).2
    rw [hq] at hempty
    simp at hempty
  | reset _ => exact .of_tail (.inl rfl) (Nat.zero_lt_succ 7)

theorem State.flushTrigger_phase {s : State} (h : s.phase = .encode) :
    s.flushTrigger.phase = .encode ∨ s.flushTrigger.phase = .flush := by
  unfold State.flushTrigger
  split
  · exact .inr rfl
  · exact .inl h

theorem EncodeEffect.phaseInv {s t : State} (h : EncodeEffect s t) (hp : s.phase = .encode)
    (hi : PhaseInv s) : PhaseInv t := by
  have hb := hi.tail (.inl hp)
  cases h with
  | overflow => exact .of_fault rfl rfl rfl
  | pair l d _ _ _ h =>
    refine .of_tail (h.phase ▸ State.flushTrigger_phase hp) ?_
    rw [h.bitq, State.flushTrigger_eq]
    exact hb
  | literal b _ h =>
    refine .of_tail (h.phase ▸ State.flushTrigger_phase hp) ?_
    rw [h.bitq, State.flushTrigger_eq]
    exact hb

theorem State.drainStep_bitq (s : State) : s.drainStep.bitq = s.bitq.drop 8 := rfl

theorem State.drainStep_phase (s : State) :
    s.drainStep.phase =
      if (s.bitq.drop 8).length < 8 then (if s.phase = .drainFinal then .done else .encode)
      else s.phase := rfl

theorem State.drainStep_phaseInv {s : State} (hi : PhaseInv s)
    (hp : s.phase = .drain ∨ s.phase = .drainFinal) : PhaseInv s.drainStep := by
  by_cases hlen : (s.bitq.drop 8).length < 8
  · rcases hp with hp | hp
    · exact .of_tail (.inl (by rw [State.drainStep_phase, if_pos hlen]; simp [hp])) hlen
    · obtain ⟨h8, hmod⟩ := hi.draining_final hp
      obtain ⟨he, hpr⟩ := hi.ended (.inl hp)
      have hnil : s.bitq.drop 8 = [] := by
        rw [List.length_drop] at hlen
        exact List.drop_eq_nil_iff.2 (by omega)
      exact .of_done (by rw [State.drainStep_phase, if_pos hlen]; simp [hp]) hnil he hpr
  · have hge : 8 ≤ (s.bitq.drop 8).length := Nat.le_of_not_lt hlen
    rcases hp with hp | hp
    · exact .of_drain (by rw [State.drainStep_phase, if_neg hlen, hp]) hge
    · obtain ⟨h8, hmod⟩ := hi.draining_final hp
      obtain ⟨he, hpr⟩ := hi.ended (.inl hp)
      refine .of_drainFinal (by rw [State.drainStep_phase, if_neg hlen, hp]) hge ?_ he hpr
      rw [State.drainStep_bitq, List.length_drop]
      omega

theorem State.flushStep_phaseInv (s : State) : PhaseInv s.flushStep := by
  cases s.flushStep_effect with
  | fault c h => exact .of_fault h.phase h.bitq h.oq
  | written l h8 _ h =>
    refine .of_drain h.phase ?_
    rw [h.bitq]
    simp only [List.length_append]
    omega

theorem State.finishStep_eoi (s : State) : s.finishStep.eoi = s.eoi := by
  rcases State.finishStep_cases s with ⟨-, h⟩ | ⟨-, ⟨c, -, h⟩ | ⟨w, -, h⟩⟩ <;> rw [h] <;> simp

theorem State.finishStep_phaseInv {s : State} (he : s.eoi = true) (hpr : s.p = s.r) :
    PhaseInv s.finishStep := by
  have hw := SameWindow.finishStep s
  have heoi := s.finishStep_eoi
  cases s.finishStep_effect with
  | fault c h => exact .of_fault h.phase h.bitq h.oq
  | written l h8 hpad h =>
    refine .of_drainFinal h.phase ?_ ?_ (heoi.trans he) (by rw [hw.p, hw.r, hpr])
    · rw [h.bitq]
      simp only [List.length_append]
      omega
    · rw [h.bitq]
      exact hpad rfl

theorem CoreEffect.phaseInv {s t : State} (h : CoreEffect s t) (hi : PhaseInv s) : PhaseInv t := by
  cases h with
  | stall _ => exact hi
  | encode _ he ht =>
    obtain ⟨hp, -, -⟩ := State.guard_of_encode he
    exact (State.encodeStep_effect ht).phaseInv hp hi
  | flush _ => exact s.flushStep_phaseInv
  | drain he =>
    obtain ⟨hp, -, -⟩ := State.guard_of_drain he
    exact State.drainStep_phaseInv hi hp
  | finish he =>
    obtain ⟨-, heoi, hpr⟩ := State.guard_of_finish he
    exact State.finishStep_phaseInv heoi hpr

theorem PhaseInv.takeTurn {s : State} (h : PhaseInv s) : PhaseInv s.takeTurn :=
  ⟨h.tail, h.draining, h.draining_final, h.done, h.stopped, h.ended⟩

/-- A stream element run by itself would append bits in any phase, so the turns are the agents'
(log 5). -/
theorem step_phaseInv {s t : State} (h : step s = .next t) (ha : s.agentsOnly) (hi : PhaseInv s) :
    PhaseInv t := by
  cases step_effect h with
  | command w _ _ h => exact h.phaseInv hi.takeTurn
  | core _ _ h => exact h.phaseInv hi.takeTurn
  | rst _ => exact .of_tail (.inl rfl) (Nat.zero_lt_succ 7)
  | element c hx _ _ _ _ =>
    have he := ha.nextTurn
    rw [hx] at he
    simp [Turn.isElem] at he

/-! ## R52 (7): the output FIFO -/

theorem OutInv.of_eq {s t : State} (h : OutInv s) (ho : t.oq = s.oq) : OutInv t := by
  unfold OutInv
  rw [ho]
  exact h

theorem OutInv.of_empty {t : State} (ho : t.oq = []) : OutInv t := by
  unfold OutInv
  rw [ho]
  exact Nat.zero_le _

theorem CommandEffect.outInv {w : CmdWord} {s t : State} (h : CommandEffect w s t) (ho : OutInv s) :
    OutInv t := by
  cases h with
  | fault c _ => exact .of_empty rfl
  | reset _ => exact .of_empty rfl
  | popped e rest _ hq =>
    unfold OutInv at *
    rw [hq] at ho
    exact Nat.le_of_succ_le ho
  | _ => exact ho.of_eq rfl

theorem ElementEffect.outInv {s t : State} (h : ElementEffect s t) (ho : OutInv s) : OutInv t := by
  cases h with
  | fault c _ => exact .of_empty rfl
  | _ => exact ho.of_eq rfl

theorem EncodeEffect.outInv {s t : State} (h : EncodeEffect s t) (ho : OutInv s) : OutInv t := by
  cases h with
  | overflow => exact .of_empty rfl
  | pair l d _ _ _ h => rw [State.flushTrigger_eq] at h; exact ho.of_eq h.oq
  | literal b _ h => rw [State.flushTrigger_eq] at h; exact ho.of_eq h.oq

theorem WriteEffect.outInv {p : Phase} {s t : State} (h : WriteEffect p s t) (ho : OutInv s) :
    OutInv t := by
  cases h with
  | fault c h => exact .of_empty h.oq
  | written l _ _ h => exact ho.of_eq h.oq

theorem CoreEffect.outInv {s t : State} (h : CoreEffect s t) (ho : OutInv s) : OutInv t := by
  cases h with
  | stall _ => exact ho
  | encode _ _ ht => exact (State.encodeStep_effect ht).outInv ho
  | flush _ => exact s.flushStep_effect.outInv ho
  | drain he =>
    obtain ⟨-, -, hroom⟩ := State.guard_of_drain he
    show (s.oq ++ [_]).length ≤ Config.oqDepth
    rw [List.length_append]
    exact hroom
  | finish _ => exact s.finishStep_effect.outInv ho

theorem step_outInv {s t : State} (h : step s = .next t) (ho : OutInv s) : OutInv t := by
  have ho' : OutInv s.takeTurn := ho.of_eq rfl
  cases step_effect h with
  | command w _ _ h => exact h.outInv ho'
  | core _ _ h => exact h.outInv ho'
  | rst _ => exact .of_empty rfl
  | element c _ i _ _ h => exact h.outInv ho'

/-! ## R52 (8): ISIZE -/

theorem SizeInv.of_eq {s t : State} (h : SizeInv s) (hi : t.isize = s.isize) (hr : t.r = s.r) :
    SizeInv t := by
  unfold SizeInv
  rw [hi, hr]
  exact h

theorem SizeInv.acceptByte {s : State} (h : SizeInv s) (b : Byte) : SizeInv (s.acceptByte b) := by
  unfold SizeInv at *
  rw [State.acceptByte_isize, State.acceptByte_r, h, BitVec.ofNat_add]
  rfl

theorem CommandEffect.sizeInv {w : CmdWord} {s t : State} (h : CommandEffect w s t) (hi : SizeInv s) :
    SizeInv t := by
  cases h with
  | accept b _ _ _ _ _ => exact hi.acceptByte b
  | reset _ => exact rfl
  | _ => exact hi.of_eq rfl rfl

theorem ElementEffect.sizeInv {s t : State} (h : ElementEffect s t) (hi : SizeInv s) : SizeInv t := by
  cases h <;> exact hi.of_eq rfl rfl

theorem step_sizeInv {s t : State} (h : step s = .next t) (hi : SizeInv s) : SizeInv t := by
  have hi' : SizeInv s.takeTurn := hi.of_eq rfl rfl
  cases step_effect h with
  | command w _ _ h => exact h.sizeInv hi'
  | core _ _ h => exact hi'.of_eq h.sameInput.isize h.sameInput.r
  | rst _ => exact rfl
  | element c _ i _ _ h => exact h.sizeInv hi'

/-! ## All invariants -/

/-- The turns left are those listed after the one the step took. -/
theorem step_turns {s t : State} (h : step s = .next t) : t.turns = s.turns.drop 1 := by
  cases step_effect h with
  | command w _ _ h => exact h.turns
  | core _ _ h => exact h.sameInput.turns
  | rst _ => rfl
  | element c _ i _ _ h => exact h.turns

theorem step_agentsOnly {s t : State} (h : step s = .next t) (ha : s.agentsOnly) : t.agentsOnly := by
  intro x hx
  rw [step_turns h] at hx
  exact ha x (List.mem_of_mem_drop hx)

/-- Every step of the spec's agents keeps R52. -/
theorem step_invariant {s t : State} (h : step s = .next t) (ha : s.agentsOnly) (hi : Invariant s) :
    Invariant t where
  cursor := (step_window h).cursorInv hi.cursor
  store := (step_window h).storeInv hi.cursor hi.store
  index := (step_window h).indexInv hi.index
  sym := step_symInv h hi.sym
  freq := step_freqInv h hi.freq
  phase := step_phaseInv h ha hi.phase
  out := step_outInv h hi.out
  size := step_sizeInv h hi.size

/-- Settles O59: the step answers because the store and the index are exact, and what it answers keeps
each invariant. -/
theorem everyStepSafe : Obligations.EveryStepSafe := by
  intro s hi ha
  obtain ⟨t, ht⟩ := hi.index.indexExact.step_next hi.store ha
  exact ⟨t, ht, step_invariant ht ha hi, step_agentsOnly ht ha⟩

end Sys2Proof.Machine
end

section
/-! SUPPORT. The host command word: its fields as numbers (R90), what the decoder makes of a word by its
fields (R91, R94), the step of an illegal word (R309), and the proofs of O4 and O5. -/

namespace Sys2Proof.Machine

/-! ## The fields of a command word -/

theorem cmdOpc_toNat (w : CmdWord) : (cmdOpc w).toNat = w.toNat / 4096 := by
  rw [cmdOpc, BitVec.extractLsb'_toNat, Nat.shiftRight_eq_div_pow]
  exact Nat.mod_eq_of_lt (Nat.div_lt_of_lt_mul w.isLt)

theorem cmdArg_toNat (w : CmdWord) : (cmdArg w).toNat = w.toNat % 256 :=
  BitVec.extractLsb'_toNat ..

theorem cmdRsv_toNat (w : CmdWord) : (cmdRsv w).toNat = w.toNat % 4096 / 256 := by
  rw [cmdRsv, BitVec.extractLsb'_toNat, Nat.shiftRight_eq_div_pow]
  omega

theorem cmdRsv_eq_zero_iff (w : CmdWord) : cmdRsv w = 0 ↔ w.toNat % 4096 / 256 = 0 := by
  rw [← cmdRsv_toNat]
  exact BitVec.toNat_eq

/-- The mask `0xFF00` keeps `OPC`. -/
theorem cmdOpc_mask (w : CmdWord) : cmdOpc (w &&& 0xFF00) = cmdOpc w := by
  rw [cmdOpc, BitVec.extractLsb'_and]
  exact BitVec.and_allOnes

/-- The mask `0xFF00` keeps `RSV`. -/
theorem cmdRsv_mask (w : CmdWord) : cmdRsv (w &&& 0xFF00) = cmdRsv w := by
  rw [cmdRsv, BitVec.extractLsb'_and]
  exact BitVec.and_allOnes

/-! ## The decoder by the fields -/

/-- A word of a reserved opcode decodes whatever its other bits (R91), and its instruction is
`ILLEGAL()`. -/
theorem decodeCmd_reserved {w : CmdWord} (h : 6 ≤ (cmdOpc w).toNat ∧ (cmdOpc w).toNat ≤ 14) :
    ∃ i, decodeCmd w = .ok i ∧ ∀ s, exec i s = .next s.illegal := by
  obtain ⟨hlo, hhi⟩ := h
  rw [cmdOpc_toNat] at hlo hhi
  unfold decodeCmd
  dsimp only
  generalize w.toNat / 4096 = opc at hlo hhi
  interval_cases opc <;> exact ⟨_, rfl, fun _ => rfl⟩

/-- Any other word is legal only with `RSV = 0`, and is then read by the opcode map (R91, R94). -/
theorem decodeCmd_of_not_reserved {w : CmdWord}
    (h : ¬ (6 ≤ (cmdOpc w).toNat ∧ (cmdOpc w).toNat ≤ 14)) :
    decodeCmd w = if cmdRsv w = 0 then decodeOpcode (cmdOpc w).toNat (cmdArg w).toNat
      else .error .illegalCommandWord := by
  simp only [cmdRsv_eq_zero_iff, cmdArg_toNat, cmdOpc_toNat] at h ⊢
  rw [← Nat.mod_mod_of_dvd w.toNat (show 256 ∣ 4096 by decide)]
  unfold decodeCmd
  dsimp only
  split
  case h_10 => rfl
  all_goals omega

/-- A word whose opcode is matched under `0xFF00`, with `RSV = 0`, is read by the opcode map. -/
theorem decodeCmd_of_mask {w c : CmdWord} (hm : w &&& 0xFF00 = c) (hrsv : cmdRsv c = 0)
    (h : ¬ (6 ≤ (cmdOpc c).toNat ∧ (cmdOpc c).toNat ≤ 14)) :
    decodeCmd w = decodeOpcode (cmdOpc c).toNat (cmdArg w).toNat := by
  subst hm
  rw [cmdOpc_mask] at h ⊢
  rw [cmdRsv_mask] at hrsv
  rw [decodeCmd_of_not_reserved h, if_pos hrsv]

theorem decodeOpcode_push (b : Byte) : decodeOpcode 1 b.toNat = .ok (.push b) := by
  simp [decodeOpcode]

theorem decodeOpcode_readReg (b : Byte) : decodeOpcode 4 b.toNat = .ok (.readReg b) := by
  simp [decodeOpcode]

/-- A command without an operand is illegal with a nonzero `ARG` (R94). -/
theorem decodeOpcode_of_arg_ne_zero {opc arg : Nat} (ha : arg ≠ 0)
    (h : opc = 0 ∨ opc = 2 ∨ opc = 3 ∨ opc = 5 ∨ opc = 15) :
    decodeOpcode opc arg = .error .illegalCommandWord := by
  rcases h with rfl | rfl | rfl | rfl | rfl <;> exact if_neg ha

/-- Settles O4: the two commands with an operand by their mask, the reserved opcodes by
`decodeCmd_reserved`, and the other commands are one word each. -/
theorem opcodeMap : Obligations.OpcodeMap := by
  intro w
  refine ⟨?nop, ?push, ?eoi, ?pop, ?readReg, ?abort, ?softReset, decodeCmd_reserved⟩
  case push =>
    intro h
    rw [decodeCmd_of_mask h rfl (by decide)]
    exact decodeOpcode_push _
  case readReg =>
    intro h
    rw [decodeCmd_of_mask h rfl (by decide)]
    exact decodeOpcode_readReg _
  all_goals
    rintro rfl
    rfl

/-! ## The step of an illegal word -/

/-- An illegal word whose opcode is not reserved does not decode (R94). -/
theorem decodeCmd_of_illegalWord {w : CmdWord} (hw : illegalWord w)
    (h : ¬ (6 ≤ (cmdOpc w).toNat ∧ (cmdOpc w).toNat ≤ 14)) :
    decodeCmd w = .error .illegalCommandWord := by
  rw [decodeCmd_of_not_reserved h]
  split
  case isFalse => rfl
  case isTrue hrsv =>
    rcases hw with hres | hne | ⟨harg, hopc⟩
    · exact absurd hres h
    · exact absurd hrsv hne
    · exact decodeOpcode_of_arg_ne_zero (fun h0 => harg (BitVec.eq_of_toNat_eq h0)) hopc

/-- The turn of an illegal word runs `ILLEGAL()`: a reserved opcode decodes to it, and any other
illegal word does not decode (R94, R309). -/
theorem step_of_illegalWord {s : State} {w : CmdWord} (hx : s.nextTurn = .cmd w)
    (hw : illegalWord w) : step s = .next s.takeTurn.illegal := by
  by_cases hres : 6 ≤ (cmdOpc w).toNat ∧ (cmdOpc w).toNat ≤ 14
  · obtain ⟨i, hi, hexec⟩ := decodeCmd_reserved hres
    rw [step_cmd_ok hx hi, hexec]
  · exact step_cmd_error hx (decodeCmd_of_illegalWord hw hres)

theorem State.illegal_of_fault {s : State} (h : s.phase = .fault) : s.illegal = s.respond 0 :=
  if_pos h

theorem State.illegal_of_ne_fault {s : State} (h : s.phase ≠ .fault) :
    s.illegal = s.raiseHost .illegalCmd := if_neg h

/-- Settles O5: the turn runs `ILLEGAL()`, whose two branches are the two clauses. -/
theorem illegalWords : Obligations.IllegalWords := by
  intro s w rest hturns hw
  have hstep : step s = .next (State.illegal { s with turns := rest }) := by
    rw [step_of_illegalWord (State.nextTurn_of_turns hturns) hw, State.takeTurn_of_turns hturns]
  rw [hstep]
  exact ⟨fun hp => congrArg _ (State.illegal_of_ne_fault hp),
    fun hp => congrArg _ (State.illegal_of_fault hp)⟩

end Sys2Proof.Machine
end

section
/-! SUPPORT. The partition tables of the spec (R141, R143): each tiles its range, so a value is covered
by exactly one row, and the row LenCode or DistCode picks by the largest base covers the value too. With
it the proofs of O44 and O45. -/

namespace Sys2Proof.Machine

/-! ## Rows that tile a range -/

/-- The rows that cover a value. -/
def rowsCovering (rows : List PartitionRow) (v : Nat) : List PartitionRow :=
  rows.filter fun row => decide (row.lo ≤ v ∧ v ≤ row.hi)

theorem mem_rowsCovering {rows : List PartitionRow} {row : PartitionRow} {v : Nat} :
    row ∈ rowsCovering rows v ↔ row ∈ rows ∧ row.lo ≤ v ∧ v ≤ row.hi := by
  simp [rowsCovering]

/-- No row is empty, the first begins at `a`, each begins where the one before it ends, and the last
ends below `b`. -/
def tiles : List PartitionRow → Nat → Nat → Bool
  | [], a, b => decide (a = b)
  | row :: rest, a, b => decide (row.lo = a ∧ row.lo ≤ row.hi) && tiles rest (row.hi + 1) b

theorem tiles_cons_iff {row : PartitionRow} {rest : List PartitionRow} {a b : Nat} :
    tiles (row :: rest) a b = true ↔
      (row.lo = a ∧ row.lo ≤ row.hi) ∧ tiles rest (row.hi + 1) b = true := by
  simp [tiles]

theorem le_of_tiles {rows : List PartitionRow} {a b : Nat} (h : tiles rows a b = true) : a ≤ b := by
  induction rows generalizing a with
  | nil => exact (of_decide_eq_true h).le
  | cons row rest ih =>
    obtain ⟨⟨hlo, hne⟩, hrest⟩ := tiles_cons_iff.1 h
    have := ih hrest
    omega

/-- Rows that tile a range cover each value of the range once, and no other value. -/
theorem length_rowsCovering_of_tiles {rows : List PartitionRow} {a b : Nat}
    (h : tiles rows a b = true) (v : Nat) :
    (rowsCovering rows v).length = if a ≤ v ∧ v < b then 1 else 0 := by
  induction rows generalizing a with
  | nil =>
    have hab : a = b := of_decide_eq_true h
    exact (if_neg (by omega)).symm
  | cons row rest ih =>
    obtain ⟨⟨hlo, hne⟩, hrest⟩ := tiles_cons_iff.1 h
    have hle := le_of_tiles hrest
    have hcount := ih hrest
    unfold rowsCovering at hcount ⊢
    rw [List.filter_cons]
    by_cases hv : row.lo ≤ v ∧ v ≤ row.hi
    · rw [if_pos (decide_eq_true hv), List.length_cons, hcount, if_neg (by omega), if_pos (by omega)]
    · rw [if_neg (by simpa using hv), hcount]
      exact if_congr (by omega) rfl rfl

theorem range_of_mem_rowsCovering {rows : List PartitionRow} {row : PartitionRow} {a b v : Nat}
    (h : tiles rows a b = true) (hrow : row ∈ rowsCovering rows v) : a ≤ v ∧ v < b := by
  by_contra hv
  have hlen := length_rowsCovering_of_tiles h v
  rw [if_neg hv] at hlen
  rw [List.eq_nil_of_length_eq_zero hlen] at hrow
  exact List.not_mem_nil hrow

theorem eq_of_mem_rowsCovering {rows : List PartitionRow} {row row' : PartitionRow} {a b v : Nat}
    (h : tiles rows a b = true) (hrow : row ∈ rowsCovering rows v)
    (hrow' : row' ∈ rowsCovering rows v) : row = row' := by
  have hlen := length_rowsCovering_of_tiles h v
  rw [if_pos (range_of_mem_rowsCovering h hrow)] at hlen
  obtain ⟨r, hr⟩ := List.length_eq_one_iff.1 hlen
  rw [hr, List.mem_singleton] at hrow hrow'
  exact hrow.trans hrow'.symm

theorem lengthPartition_tiles : tiles lengthPartition 3 259 = true := by decide

theorem distancePartition_tiles : tiles distancePartition 1 32769 = true := by decide

/-! ## The rows by base and extra bits -/

/-- The length row of `LEN_BASE` and `LEN_EXTRA` at an index below 28; length 258 is not in the last
of them, as it has the row of symbol 285 (R140). -/
def lenRow (i : Nat) : PartitionRow :=
  ⟨257 + i, lenExtra.getD i 0, lenBase.getD i 0,
    min 257 (lenBase.getD i 0 + 2 ^ lenExtra.getD i 0 - 1)⟩

theorem lengthPartition_eq :
    lengthPartition = (List.range 28).map lenRow ++ [⟨285, 0, 258, 258⟩] := by decide

theorem lenRow_mem {i : Nat} (h : i < 28) : lenRow i ∈ lengthPartition := by
  rw [lengthPartition_eq]
  exact List.mem_append_left _ (List.mem_map_of_mem (List.mem_range.2 h))

theorem lengthPartition_cases {row : PartitionRow} (h : row ∈ lengthPartition) :
    (∃ i < 28, row = lenRow i) ∨ row = ⟨285, 0, 258, 258⟩ := by
  rw [lengthPartition_eq, List.mem_append, List.mem_map, List.mem_singleton] at h
  refine h.imp_left ?_
  rintro ⟨i, hi, rfl⟩
  exact ⟨i, List.mem_range.1 hi, rfl⟩

/-- The distance row of `DIST_BASE` and `DIST_EXTRA` at an index (R143). -/
def distRow (i : Nat) : PartitionRow :=
  ⟨i, distExtra.getD i 0, distBase.getD i 0, distBase.getD i 0 + 2 ^ distExtra.getD i 0 - 1⟩

theorem distancePartition_eq : distancePartition = (List.range 30).map distRow := by decide

theorem distRow_mem_iff {row : PartitionRow} :
    row ∈ distancePartition ↔ ∃ i < 30, row = distRow i := by
  simp only [distancePartition_eq, List.mem_map, List.mem_range, eq_comm]

/-! ## LenCode and DistCode by the row that covers the value -/

/-- The length row of the largest base covers the length. -/
theorem lenRow_covers {l i : Nat} (hl : l < 258) (h : largestBase lenBase 28 l = some i) :
    lenRow i ∈ rowsCovering lengthPartition l := by
  obtain ⟨hi, hlo, -⟩ := largestBase_spec h
  have hxv := lenCode_extra_lt hl h
  exact mem_rowsCovering.2 ⟨lenRow_mem hi, hlo, le_min (by omega) (by omega)⟩

/-- LenCode answers the row that covers the length (R140, R141). -/
theorem lenCode_of_covers {row : PartitionRow} {l : Nat} (h : row ∈ rowsCovering lengthPartition l) :
    lenCode l = some ⟨row.sym, l - row.lo, row.xb⟩ := by
  obtain ⟨h3, -⟩ := range_of_mem_rowsCovering lengthPartition_tiles h
  obtain ⟨hmem, hlo, hhi⟩ := mem_rowsCovering.1 h
  rcases lengthPartition_cases hmem with ⟨k, -, rfl⟩ | rfl
  · have hl : l < 258 := Nat.lt_succ_of_le (hhi.trans (min_le_left _ _))
    obtain ⟨i, hi⟩ := largestBase_isSome (bases := lenBase) (n := 28) (by decide) h3
    rw [eq_of_mem_rowsCovering lengthPartition_tiles h (lenRow_covers hl hi), lenCode_of_lt h3 hl, hi]
    rfl
  · obtain rfl : l = 258 := le_antisymm hhi hlo
    exact lenCode_max

theorem lengthOf_row :
    ∀ row ∈ lengthPartition, ∀ xv, lengthOf row.sym xv = row.lo + xv := by
  have hbase : ∀ row ∈ lengthPartition, lenBase.getD (row.sym - 257) 0 = row.lo := by decide
  exact fun row hrow xv => congrArg (· + xv) (hbase row hrow)

/-- The distance row of the largest base covers the distance. -/
theorem distRow_covers {d i : Nat} (hd : d ≤ 32768) (h : largestBase distBase 30 d = some i) :
    distRow i ∈ rowsCovering distancePartition d := by
  obtain ⟨hi, hlo, -⟩ := largestBase_spec h
  have hxv := distCode_extra_lt hd h
  exact mem_rowsCovering.2 ⟨distRow_mem_iff.2 ⟨i, hi, rfl⟩, hlo, by simp only [distRow]; omega⟩

/-- DistCode answers the row that covers the distance (R142, R143). -/
theorem distCode_of_covers {row : PartitionRow} {d : Nat}
    (h : row ∈ rowsCovering distancePartition d) :
    distCode d = some ⟨row.sym, d - row.lo, row.xb⟩ := by
  obtain ⟨h1, h2⟩ := range_of_mem_rowsCovering distancePartition_tiles h
  have hd : d ≤ 32768 := Nat.le_of_lt_succ h2
  obtain ⟨i, hi⟩ := largestBase_isSome (bases := distBase) (n := 30) (by decide) h1
  rw [eq_of_mem_rowsCovering distancePartition_tiles h (distRow_covers hd hi), distCode_of_le h1 hd, hi]
  rfl

theorem distanceOf_row :
    ∀ row ∈ distancePartition, ∀ xv, distanceOf row.sym xv = row.lo + xv := by
  intro row hrow xv
  obtain ⟨i, -, rfl⟩ := distRow_mem_iff.1 hrow
  rfl

/-! ## The obligations -/

/-- Settles O45: DistCode answers the covering row, and the 30 rows tile 1 to 32768. -/
theorem distanceCodes : Obligations.DistanceCodes := by
  refine ⟨fun row hrow d hlo hhi => ?_, fun d h1 h2 => ?_⟩
  · have hcode := distCode_of_covers (mem_rowsCovering.2 ⟨hrow, hlo, hhi⟩)
    refine ⟨hcode, distOk_of_distCode hcode, ?_⟩
    rw [distanceOf_row row hrow, Nat.add_sub_cancel' hlo]
  · exact (length_rowsCovering_of_tiles distancePartition_tiles d).trans
      (if_pos ⟨h1, Nat.lt_succ_of_le h2⟩)

/-- Settles O44: LenCode answers the covering row, and the 29 rows tile 3 to 258. -/
theorem lengthCodes : Obligations.LengthCodes := by
  refine ⟨fun row hrow l _ hlo hhi => ?_, fun l hl h3 => ?_⟩
  · have hcode := lenCode_of_covers (mem_rowsCovering.2 ⟨hrow, hlo, hhi⟩)
    refine ⟨hcode, lenOk_of_lenCode hcode, ?_⟩
    rw [lengthOf_row row hrow, Nat.add_sub_cancel' hlo]
  · exact (length_rowsCovering_of_tiles lengthPartition_tiles l).trans (if_pos ⟨h3, hl⟩)

end Sys2Proof.Machine
end

section
/-! SUPPORT. The index as a whole (R152, R155): each position stands in it at most once, so it holds no
more positions than the window. With it the proofs of O56 and O41. -/

namespace Sys2Proof.Machine

/-! ## The listed positions -/

/-- A listed key's list is the one the index gives for the key. -/
theorem PrefixIndex.get_of_mem {x : PrefixIndex} (h : x.wf) {e : Key × List Nat} (he : e ∈ x) :
    x.get e.1 = e.2 := by
  induction x with
  | nil => simp at he
  | cons c x ih =>
    obtain ⟨hrise, hkeys⟩ := List.pairwise_cons.1 h.1
    rcases List.mem_cons.1 he with rfl | he
    · exact if_pos rfl
    · have hlt : c.1.toNat < e.1.toNat := hrise _ (List.mem_map_of_mem he)
      have hne : c.1 ≠ e.1 := ne_of_apply_ne BitVec.toNat hlt.ne
      exact (if_neg hne).trans (ih ⟨hkeys, fun e he => h.2 e (List.mem_cons_of_mem _ he)⟩ he)

theorem State.nodup_keyed (s : State) (k : Key) (a b : Nat) : (s.keyed k a b).Nodup :=
  (List.nodup_reverse.2 List.nodup_range').filter _

/-- No position has two keys. -/
theorem State.disjoint_keyed (s : State) {k k' : Key} (h : k ≠ k') (a b : Nat) :
    (s.keyed k a b).Disjoint (s.keyed k' a b) := by
  intro q hq hq'
  obtain ⟨-, -, -, hk⟩ := State.mem_keyed hq
  obtain ⟨-, -, -, hk'⟩ := State.mem_keyed hq'
  exact h (Option.some.inj (hk.symm.trans hk'))

theorem IndexExact.snd_eq {s : State} (h : IndexExact s) {e : Key × List Nat} (he : e ∈ s.pindex) :
    e.2 = s.keyed e.1 s.wstart s.p := by
  rw [← PrefixIndex.get_of_mem h.canonical he, h.exact, s.indexSpec_eq]

/-- An exact index lists no position twice: not under one key, and not under two. -/
theorem IndexExact.nodup_positions {s : State} (h : IndexExact s) :
    (s.pindex.flatMap Prod.snd).Nodup := by
  have hkeys : s.pindex.Pairwise fun e e' => e.1.toNat < e'.1.toNat := List.pairwise_map.1 h.canonical.1
  refine List.nodup_flatMap.2 ⟨fun e he => ?_, hkeys.imp_of_mem fun {e e'} he he' hlt => ?_⟩
  · rw [h.snd_eq he]
    exact s.nodup_keyed _ _ _
  · have hne : e.1 ≠ e'.1 := ne_of_apply_ne BitVec.toNat hlt.ne
    show e.2.Disjoint e'.2
    rw [h.snd_eq he, h.snd_eq he']
    exact s.disjoint_keyed hne _ _

theorem IndexExact.positions_subset {s : State} (h : IndexExact s) :
    s.pindex.flatMap Prod.snd ⊆ List.range' s.wstart (s.p - s.wstart) := by
  intro q hq
  obtain ⟨e, he, hqe⟩ := List.mem_flatMap.1 hq
  rw [← PrefixIndex.get_of_mem h.canonical he] at hqe
  obtain ⟨h1, h2⟩ := h.mem_get hqe
  exact List.mem_range'_1.2 ⟨h1, by omega⟩

/-- The index holds at most as many positions as the window (R155). -/
theorem IndexExact.size_le {s : State} (h : IndexExact s) :
    (s.pindex.map fun e => e.2.length).sum ≤ s.p - s.wstart := by
  have hlen := (List.subperm_of_subset h.nodup_positions h.positions_subset).length_le
  rwa [List.length_flatMap, List.length_range'] at hlen

/-! ## The obligations -/

/-- Settles O56: what a step does to the window keeps the index exact. -/
theorem indexKept : Obligations.IndexKept :=
  fun _ _ _ _ hx hstep => (step_window hstep).indexInv hx

/-- Settles O41: the window ends 32768 bytes behind the cursor, and an exact index lists positions of
the window, none of them twice. -/
theorem indexBounded : Obligations.IndexBounded := by
  intro s hx
  have hw : s.wstart = s.p - 32768 := windowStart_eq _
  have hwindow : s.p - s.wstart ≤ 32768 := by omega
  refine ⟨hwindow, fun k q hq => ?_, hx.indexExact.size_le.trans hwindow⟩
  obtain ⟨h1, h2⟩ := hx.indexExact.mem_get hq
  omega

end Sys2Proof.Machine
end

section
/-! SUPPORT. The policy of FIND_BEST_MATCH (R156 to R161): why a comparison stops, and which candidate
of a key's list the scan answers. With it the proof of O40. -/

namespace Sys2Proof.Machine

/-! ## The comparison -/

/-- A comparison that ends below its cap ends at two different bytes (R156). -/
theorem State.matchFrom_stop {s : State} {q p n k m : Nat} (h : s.matchFrom q p n k = some m)
    (hm : m < k + n) : ∃ a b, s.winRead (q + m) = some a ∧ s.winRead (p + m) = some b ∧ a ≠ b := by
  induction n generalizing k with
  | zero =>
    obtain rfl : k = m := Option.some.inj h
    exact absurd hm (lt_irrefl _)
  | succ n ih =>
    unfold State.matchFrom at h
    split at h
    next a b ha hb =>
      split at h
      next => exact ih h (by omega)
      next hab =>
        obtain rfl : k = m := Option.some.inj h
        exact ⟨a, b, ha, hb, hab⟩
    next => simp at h

/-! ## The scan -/

/-- What one candidate does to a scan whose best is below the early-exit length: it ends the scan
(R161), it is the new best (R160), or the best stays. -/
theorem State.scan_cons_cases {s : State} {p cap q : Nat} {l : List Nat} {best c : Candidate}
    (hbest : best.length < 250) (h : s.scan p cap (q :: l) best = some c) :
    ∃ k, s.matchFrom q p cap 0 = some k ∧
      ((best.length < k ∧ 250 ≤ k ∧ c = ⟨k, p - q⟩) ∨
       (best.length < k ∧ k < 250 ∧ s.scan p cap l ⟨k, p - q⟩ = some c) ∨
       (k ≤ best.length ∧ s.scan p cap l best = some c)) := by
  unfold State.scan at h
  split at h
  next => simp at h
  next k hk =>
    refine ⟨k, hk, ?_⟩
    simp only at h
    by_cases hlonger : best.length < k
    · rw [if_pos hlonger] at h
      split at h
      next hexit => exact .inl ⟨hlonger, hexit, (Option.some.inj h).symm⟩
      next hexit => exact .inr (.inl ⟨hlonger, Nat.lt_of_not_le hexit, h⟩)
    · rw [if_neg hlonger, if_neg (show ¬ Config.threshold ≤ best.length from Nat.not_le.2 hbest)] at h
      exact .inr (.inr ⟨Nat.le_of_not_lt hlonger, h⟩)

/-- `c` is the comparison of the candidate `q` between the more recent `l1` and the older `l2`: all of
`l1` is shorter and did not end the scan, and if `q` did not end it either, nothing in `l2` is longer. -/
structure State.Picked (s : State) (p cap : Nat) (l1 : List Nat) (q : Nat) (l2 : List Nat)
    (c : Candidate) : Prop where
  distance : c.distance = p - q
  length : s.matchFrom q p cap 0 = some c.length
  before : ∀ q' ∈ l1, ∃ k, s.matchFrom q' p cap 0 = some k ∧ k < c.length ∧ k < 250
  after : c.length < 250 → ∀ q' ∈ l2, ∃ k, s.matchFrom q' p cap 0 = some k ∧ k ≤ c.length

/-- One more recent candidate, shorter and below the early-exit length, changes nothing. -/
theorem State.Picked.cons {s : State} {p cap q q' k : Nat} {l1 l2 : List Nat} {c : Candidate}
    (h : s.Picked p cap l1 q l2 c) (hk : s.matchFrom q' p cap 0 = some k) (hlt : k < c.length)
    (hexit : k < 250) : s.Picked p cap (q' :: l1) q l2 c where
  distance := h.distance
  length := h.length
  before := List.forall_mem_cons.2 ⟨⟨k, hk, hlt, hexit⟩, h.before⟩
  after := h.after

/-- What the scan answers (R156, R160, R161): the best it started with, when no candidate is longer, or
the candidate that beats it and that the others do not beat. -/
theorem State.scan_policy {s : State} {p cap : Nat} {l : List Nat} {best c : Candidate}
    (hbest : best.length < 250) (h : s.scan p cap l best = some c) :
    (c = best ∧ ∀ q ∈ l, ∃ k, s.matchFrom q p cap 0 = some k ∧ k ≤ best.length) ∨
    (best.length < c.length ∧ ∃ l1 q l2, l = l1 ++ q :: l2 ∧ s.Picked p cap l1 q l2 c) := by
  induction l generalizing best with
  | nil => exact .inl ⟨(Option.some.inj h).symm, by simp⟩
  | cons q l ih =>
    obtain ⟨k, hk, ⟨hlonger, hexit, rfl⟩ | ⟨hlonger, hexit, hrest⟩ | ⟨hle, hrest⟩⟩ :=
      State.scan_cons_cases hbest h
    · have hpick : s.Picked p cap [] q l ⟨k, p - q⟩ :=
        ⟨rfl, hk, by simp, fun hlt => absurd hlt (Nat.not_lt.2 hexit)⟩
      exact .inr ⟨hlonger, [], q, l, rfl, hpick⟩
    · rcases ih hexit hrest with ⟨rfl, hall⟩ | ⟨hbeats, l1, q', l2, rfl, hpick⟩
      · exact .inr ⟨hlonger, [], q, l, rfl, rfl, hk, by simp, fun _ => hall⟩
      · exact .inr ⟨hlonger.trans hbeats, q :: l1, q', l2, rfl, hpick.cons hk hbeats hexit⟩
    · rcases ih hbest hrest with ⟨rfl, hall⟩ | ⟨hbeats, l1, q', l2, rfl, hpick⟩
      · exact .inl ⟨rfl, List.forall_mem_cons.2 ⟨⟨k, hk, hle⟩, hall⟩⟩
      · have hlt : k < c.length := lt_of_le_of_lt hle hbeats
        exact .inr ⟨hbeats, q :: l1, q', l2, rfl, hpick.cons hk hlt (lt_of_le_of_lt hle hbest)⟩

/-! ## FIND_BEST_MATCH -/

/-- A usable match is what the scan of the cursor's key answers (R156). -/
theorem State.findBestMatch_scan {s : State} {p avail : Nat} {c : Candidate}
    (h : s.findBestMatch p avail = some c) (hlen : 0 < c.length) :
    ∃ key, s.keyAt p = some key ∧
      s.scan p (min 258 avail) (s.pindex.get key) ⟨0, 0⟩ = some c := by
  have hzero : ¬ some (⟨0, 0⟩ : Candidate) = some c := by
    rintro ⟨⟩
    exact lt_irrefl _ hlen
  unfold State.findBestMatch at h
  split at h
  next => exact absurd h hzero
  next =>
    split at h
    next => simp at h
    next key hkey =>
      split at h
      next => simp at h
      next best hscan =>
        split at h
        next => exact absurd h hzero
        next => exact ⟨key, hkey, hscan.trans h⟩

/-- A usable match is the first candidate of the cursor's key that no other beats (R160, R161). -/
theorem State.findBestMatch_picked {s : State} {p avail : Nat} {c : Candidate}
    (h : s.findBestMatch p avail = some c) (hlen : 0 < c.length) :
    ∃ key l1 q l2, s.keyAt p = some key ∧ s.pindex.get key = l1 ++ q :: l2 ∧
      s.Picked p (min 258 avail) l1 q l2 c := by
  obtain ⟨key, hkey, hscan⟩ := State.findBestMatch_scan h hlen
  rcases State.scan_policy (by decide) hscan with ⟨rfl, -⟩ | ⟨-, l1, q, l2, hlist, hpick⟩
  · exact absurd hlen (lt_irrefl _)
  · exact ⟨key, l1, q, l2, hkey, hlist, hpick⟩

/-- Settles O40: the first part is the comparison's count and the reason it stopped, the second what
the scan of the key's list picks. -/
theorem matchPolicy : Obligations.MatchPolicy := by
  refine ⟨fun s q p n k h => ?_, fun s p avail c h h3 => ?_⟩
  · obtain ⟨-, hcap, hequal⟩ := State.matchFrom_spec h
    exact ⟨by omega, fun j hj => hequal j (Nat.zero_le j) hj,
      fun hk => State.matchFrom_stop h (by omega)⟩
  · obtain ⟨key, l1, q, l2, hkey, hlist, hpick⟩ := State.findBestMatch_picked h (by omega)
    exact ⟨key, l1, q, l2, hkey, hlist, hpick.distance, hpick.length, hpick.before, hpick.after⟩

end Sys2Proof.Machine
end

section
/-! SUPPORT. BUILD_LENGTHS (R184): the merge loop ends with one tree whose leaves are the used symbols,
and the lengths the tree gives them have Kraft sum 1, or 1/2 for a tree of one leaf (R186). -/

namespace Sys2Proof.Machine

/-! ## The used symbols -/

/-- The symbols of nonzero frequency, in ascending order. -/
def usedIndices (f : List Nat) : List Nat := (usedSymbols f).map Prod.snd

theorem mem_usedIndices {f : List Nat} {s : Nat} : s ∈ usedIndices f ↔ 0 < f.getD s 0 := by
  have hget : ∀ x, (x, s) ∈ f.zipIdx ↔ f[s]? = some x := fun x => List.mk_mem_zipIdx_iff_getElem?
  simp only [usedIndices, usedSymbols, List.mem_map, List.mem_filter, Prod.exists,
    exists_eq_right, hget, decide_eq_true_eq, List.getD_eq_getElem?_getD]
  cases f[s]? <;> simp

theorem usedIndices_nodup (f : List Nat) : (usedIndices f).Nodup := by
  have hall : (f.zipIdx.map Prod.snd).Nodup := by
    simpa [List.zipIdx_map_snd] using List.nodup_range' (s := 0) (n := f.length)
  exact hall.sublist (List.filter_sublist.map _)

theorem usedIndices_length (f : List Nat) : (usedIndices f).length = usedCount f := by
  have hcount := List.countP_map (p := fun x : Nat => decide (0 < x)) (f := Prod.fst) (l := f.zipIdx)
  rw [List.zipIdx_map_fst] at hcount
  rw [usedIndices, List.length_map, usedSymbols, ← List.countP_eq_length_filter, usedCount, hcount]
  rfl

theorem lt_length_of_mem_usedIndices {f : List Nat} {s : Nat} (h : s ∈ usedIndices f) :
    s < f.length := by
  by_contra hge
  have hzero : f.getD s 0 = 0 := List.getD_eq_default _ _ (Nat.le_of_not_lt hge)
  exact absurd (mem_usedIndices.1 h) (by omega)

/-! ## The merge queue -/

/-- The leaves of a tree, left to right. -/
def Tree.symbols : Tree → List Nat
  | .leaf sym => [sym]
  | .node l r => l.symbols ++ r.symbols

/-- The leaves of all trees of a queue. -/
def forestSymbols (q : List HuffNode) : List Nat := q.flatMap fun x => x.tree.symbols

theorem addNode_perm (x : HuffNode) (q : List HuffNode) : (addNode x q).Perm (x :: q) := by
  induction q with
  | nil => exact .refl _
  | cons y q ih =>
    unfold addNode
    split
    · exact .refl _
    · exact (ih.cons y).trans (.swap x y q)

theorem initialQueue_perm (f : List Nat) : (initialQueue f).Perm (leafNodes f) := by
  unfold initialQueue
  induction leafNodes f with
  | nil => exact .refl _
  | cons x l ih => exact (addNode_perm x _).trans (ih.cons x)

theorem forestSymbols_leafNodes (f : List Nat) : forestSymbols (leafNodes f) = usedIndices f := by
  have hfst : (usedSymbols f).zipIdx.map (fun e => e.1.2) = (usedSymbols f).map Prod.snd := by
    conv_rhs => rw [← List.zipIdx_map_fst 0 (usedSymbols f), List.map_map]
    rfl
  rw [usedIndices, ← hfst, forestSymbols, leafNodes, List.flatMap_map]
  exact List.map_eq_flatMap.symm

theorem forestSymbols_initialQueue (f : List Nat) :
    (forestSymbols (initialQueue f)).Perm (usedIndices f) :=
  forestSymbols_leafNodes f ▸ (initialQueue_perm f).flatMap_right _

/-- The merge loop leaves one tree, with the leaves of all the trees it started from (R184). -/
theorem mergeNodes_root (n seq : Nat) (q : List HuffNode) (hpos : 0 < q.length)
    (hn : q.length ≤ n) :
    ∃ root, mergeNodes n seq q = [root] ∧ root.tree.symbols.Perm (forestSymbols q) := by
  induction n generalizing seq q with
  | zero => omega
  | succ n ih =>
    match q, hpos with
    | [x], _ => exact ⟨x, rfl, by simp [forestSymbols]⟩
    | x :: y :: q, _ =>
      let z : HuffNode := ⟨x.freq + y.freq, seq, .node x.tree y.tree⟩
      have hadd : (addNode z q).Perm (z :: q) := addNode_perm z q
      have hlen : (addNode z q).length = q.length + 1 := hadd.length_eq
      obtain ⟨root, hroot, hsym⟩ :=
        ih (seq + 1) (addNode z q) (by omega) (by simp only [List.length_cons] at hn; omega)
      refine ⟨root, hroot, hsym.trans ((hadd.flatMap_right _).trans ?_)⟩
      simp [z, forestSymbols, Tree.symbols]

/-- BUILD_LENGTHS on a table with a used symbol answers the lengths of a tree of its used symbols
(R184). -/
theorem buildLengths_tree {f : List Nat} (h : 0 < usedCount f) :
    ∃ t : Tree, buildLengths f = .ok (t.lengths f.length) ∧ t.symbols.Perm (usedIndices f) := by
  have hpos : 0 < (initialQueue f).length := by
    rw [List.length_pos_iff]
    intro hnil
    have hperm := forestSymbols_initialQueue f
    rw [hnil] at hperm
    rw [← usedIndices_length, ← hperm.length_eq] at h
    exact absurd h (lt_irrefl _)
  obtain ⟨root, hroot, hsym⟩ := mergeNodes_root _ (initialQueue f).length _ hpos le_rfl
  exact ⟨root.tree, by rw [buildLengths, hroot], hsym.trans (forestSymbols_initialQueue f)⟩

/-! ## The depths of a tree's leaves -/

theorem Tree.depths_map_fst (t : Tree) (d : Nat) : (t.depths d).map Prod.fst = t.symbols := by
  induction t generalizing d with
  | leaf => rfl
  | node l r ihl ihr => simp [Tree.depths, Tree.symbols, ihl, ihr]

theorem Tree.le_of_mem_depths {t : Tree} {d : Nat} {e : Nat × Nat} (h : e ∈ t.depths d) :
    d ≤ e.2 := by
  induction t generalizing d with
  | leaf =>
    obtain rfl := List.mem_singleton.1 h
    exact le_rfl
  | node l r ihl ihr =>
    rcases List.mem_append.1 h with hl | hr
    · exact Nat.le_of_succ_le (ihl hl)
    · exact Nat.le_of_succ_le (ihr hr)

theorem Tree.depths_ne_nil (t : Tree) (d : Nat) : t.depths d ≠ [] := by
  induction t generalizing d with
  | leaf => exact List.cons_ne_nil _ _
  | node l r ihl _ => exact List.append_ne_nil_of_left_ne_nil (ihl _) _

/-- The Kraft sum of a tree's leaves is what its root has: a node's two halves add up. -/
theorem Tree.sum_depths {t : Tree} {d n : Nat} (h : ∀ e ∈ t.depths d, e.2 ≤ n) :
    ((t.depths d).map fun e => 2 ^ (n - e.2)).sum = 2 ^ (n - d) := by
  induction t generalizing d with
  | leaf => simp [Tree.depths]
  | node l r ihl ihr =>
    obtain ⟨hl, hr⟩ := List.forall_mem_append.1 h
    obtain ⟨e, he⟩ := List.exists_mem_of_ne_nil _ (l.depths_ne_nil (d + 1))
    have hdn : d + 1 ≤ n := (Tree.le_of_mem_depths he).trans (hl e he)
    have hpow : 2 ^ (n - d) = 2 ^ (n - (d + 1)) * 2 := by rw [← pow_succ]; congr 1; omega
    rw [Tree.depths, List.map_append, List.sum_append, ihl hl, ihr hr, hpow, Nat.mul_two]

theorem depthOf_of_mem {l : List (Nat × Nat)} {e : Nat × Nat} (hnodup : (l.map Prod.fst).Nodup)
    (h : e ∈ l) : depthOf e.1 l = e.2 := by
  induction l with
  | nil => exact absurd h List.not_mem_nil
  | cons x l ih =>
    obtain ⟨hx, hl⟩ := List.nodup_cons.1 hnodup
    unfold depthOf
    rcases List.mem_cons.1 h with rfl | he
    · exact if_pos rfl
    · have hne : x.1 ≠ e.1 := fun heq => hx (heq ▸ List.mem_map_of_mem he)
      rw [if_neg hne, ih hl he]

theorem depthOf_of_not_mem {l : List (Nat × Nat)} {s : Nat} (h : s ∉ l.map Prod.fst) :
    depthOf s l = 0 := by
  induction l with
  | nil => rfl
  | cons x l ih =>
    obtain ⟨hx, hl⟩ := not_or.1 (mt List.mem_cons.2 h)
    unfold depthOf
    rw [if_neg (Ne.symm hx), ih hl]

/-! ## The lengths a tree gives -/

/-- The depth R184 and R186 count a tree's root at: 1 for a tree of one leaf, else 0. -/
def Tree.rootDepth : Tree → Nat
  | .leaf _ => 1
  | .node _ _ => 0

/-- The leaves with their code lengths. -/
def Tree.leaves (t : Tree) : List (Nat × Nat) := t.depths t.rootDepth

theorem Tree.leaves_map_fst (t : Tree) : t.leaves.map Prod.fst = t.symbols :=
  t.depths_map_fst _

theorem Tree.lengths_eq (t : Tree) (n : Nat) :
    t.lengths n = (List.range n).map fun s => depthOf s t.leaves := by
  cases t with
  | leaf sym => simp [Tree.lengths, Tree.leaves, Tree.rootDepth, Tree.depths, depthOf, eq_comm]
  | node l r => rfl

theorem Tree.lengths_length (t : Tree) (n : Nat) : (t.lengths n).length = n := by
  simp [Tree.lengths_eq]

/-- No leaf has length 0 (R186: not even a single one). -/
theorem Tree.pos_of_mem_leaves {t : Tree} {e : Nat × Nat} (h : e ∈ t.leaves) : 0 < e.2 := by
  cases t with
  | leaf sym => exact Tree.le_of_mem_depths (d := 1) h
  | node l r =>
    rcases List.mem_append.1 h with hl | hr
    · exact Tree.le_of_mem_depths hl
    · exact Tree.le_of_mem_depths hr

/-- Exactly the leaves have a length. -/
theorem Tree.depthOf_leaves_pos {t : Tree} (hnodup : t.symbols.Nodup) {s : Nat} :
    0 < depthOf s t.leaves ↔ s ∈ t.symbols := by
  rw [← t.leaves_map_fst] at hnodup ⊢
  constructor
  · intro h
    by_contra hs
    exact absurd (depthOf_of_not_mem hs) (by omega)
  · intro h
    obtain ⟨e, he, rfl⟩ := List.mem_map.1 h
    exact depthOf_of_mem hnodup he ▸ Tree.pos_of_mem_leaves he

/-- A Kraft sum over the numbers `l` of lengths given by a function is the sum over those that have
a length. -/
theorem kraftSum_map (l : List Nat) (g : Nat → Nat) (n : Nat) :
    kraftSum (l.map g) n =
      ((l.filter fun s => decide (0 < g s)).map fun s => 2 ^ (n - g s)).sum := by
  induction l with
  | nil => rfl
  | cons s l ih =>
    rw [kraftSum, List.map_map] at ih ⊢
    rcases Nat.eq_zero_or_pos (g s) with h | h
    · simp [h, ih]
    · simp [h, h.ne', ih]

/-- The Kraft sum of a tree's lengths (R186, R192): 1 for two leaves or more, 1/2 for one. -/
theorem Tree.kraftSum_lengths {t : Tree} {n limit : Nat} (hnodup : t.symbols.Nodup)
    (hlt : ∀ s ∈ t.symbols, s < n) (hle : ∀ x ∈ t.lengths n, x ≤ limit) :
    kraftSum (t.lengths n) limit = 2 ^ (limit - t.rootDepth) := by
  have hused : ((List.range n).filter fun s => decide (0 < depthOf s t.leaves)).Perm t.symbols := by
    rw [List.perm_ext_iff_of_nodup (List.nodup_range.filter _) hnodup]
    intro s
    have hs := hlt s
    simpa [Tree.depthOf_leaves_pos hnodup] using hs
  have hfst : (t.leaves.map Prod.fst).Nodup := by rwa [t.leaves_map_fst]
  have hleaf : ∀ e ∈ t.leaves, depthOf e.1 t.leaves = e.2 := fun e => depthOf_of_mem hfst
  have hbound : ∀ e ∈ t.leaves, e.2 ≤ limit := by
    intro e he
    have hsym : e.1 ∈ t.symbols := t.leaves_map_fst ▸ List.mem_map_of_mem he
    rw [← hleaf e he]
    refine hle _ ?_
    rw [t.lengths_eq]
    exact List.mem_map_of_mem (List.mem_range.2 (hlt _ hsym))
  calc kraftSum (t.lengths n) limit
      = (t.symbols.map fun s => 2 ^ (limit - depthOf s t.leaves)).sum := by
        rw [t.lengths_eq, kraftSum_map, (hused.map _).sum_eq]
    _ = (t.leaves.map fun e => 2 ^ (limit - e.2)).sum := by
        rw [← t.leaves_map_fst, List.map_map]
        exact congrArg List.sum (List.map_congr_left fun e he => by simp [hleaf e he])
    _ = 2 ^ (limit - t.rootDepth) := Tree.sum_depths hbound

end Sys2Proof.Machine
end

section
/-! SUPPORT. ENFORCE_MAX_LENGTH (R188 to R191): a round on lengths of Kraft sum 1 finds its three
symbols, keeps the Kraft sum and the used symbols, and lowers the excess. With it the proof of O47. -/

namespace Sys2Proof.Machine

/-! ## Greatest and lowest -/

theorem foldl_max_le_iff {l : List Nat} {a k : Nat} :
    l.foldl max a ≤ k ↔ a ≤ k ∧ ∀ x ∈ l, x ≤ k := by
  induction l generalizing a with
  | nil => simp
  | cons x l ih => simp [ih, and_assoc]

theorem maxLength_le_iff {l : List Nat} {k : Nat} : maxLength l ≤ k ↔ ∀ x ∈ l, x ≤ k := by
  simp [maxLength, foldl_max_le_iff]

theorem le_maxLength {l : List Nat} {x : Nat} (h : x ∈ l) : x ≤ maxLength l :=
  maxLength_le_iff.1 le_rfl x h

theorem maxLength_mem {l : List Nat} (h : 0 < maxLength l) : maxLength l ∈ l := by
  by_contra hmem
  have hle : maxLength l ≤ maxLength l - 1 := maxLength_le_iff.2 fun x hx => by
    have hne : x ≠ maxLength l := fun heq => hmem (heq ▸ hx)
    have := le_maxLength hx
    omega
  omega

theorem lowestIndex_some {cond : Nat → Nat → Bool} {len : List Nat} {s : Nat}
    (h : lowestIndex cond len = some s) : s < len.length ∧ cond s (len.getD s 0) = true :=
  ⟨List.mem_range.1 (List.mem_of_find?_eq_some h),
    List.find?_some (p := fun s => cond s (len.getD s 0)) h⟩

theorem lowestIndex_exists {cond : Nat → Nat → Bool} {len : List Nat} {s : Nat}
    (hs : s < len.length) (h : cond s (len.getD s 0) = true) :
    ∃ t, lowestIndex cond len = some t :=
  Option.isSome_iff_exists.1 (List.find?_isSome.2 ⟨s, List.mem_range.2 hs, h⟩)

/-- An entry of a list is the entry at some index. -/
theorem exists_getD_of_mem {len : List Nat} {x : Nat} (h : x ∈ len) :
    ∃ s, s < len.length ∧ len.getD s 0 = x := by
  obtain ⟨s, hs, rfl⟩ := List.mem_iff_getElem.1 h
  exact ⟨s, hs, List.getD_eq_getElem _ _ hs⟩

/-- The greatest length below the limit is a length, and below the limit. -/
theorem belowLimit_mem {len : List Nat} {limit : Nat} (h : 0 < belowLimit len limit) :
    belowLimit len limit ∈ len ∧ belowLimit len limit < limit := by
  obtain ⟨hmem, hlt⟩ := List.mem_filter.1 (maxLength_mem h)
  exact ⟨hmem, of_decide_eq_true hlt⟩

/-- Where no used symbol is below the limit, the lengths below it are 0. -/
theorem eq_zero_of_belowLimit {len : List Nat} {limit x : Nat} (h : belowLimit len limit = 0)
    (hx : x ∈ len) (hlt : x < limit) : x = 0 :=
  Nat.le_zero.1 (h ▸ le_maxLength (List.mem_filter.2 ⟨hx, decide_eq_true hlt⟩))

theorem excess_eq_zero_iff {len : List Nat} {limit : Nat} :
    excess len limit = 0 ↔ ∀ x ∈ len, x ≤ limit := by
  simp [excess, List.sum_eq_zero_iff, Nat.sub_eq_zero_iff_le]

/-! ## One round -/

/-- What a round swaps (R188, R189): two symbols `a` and `b` of the greatest length `m`, above the
limit, and a used symbol `c` of a length `l` below it. -/
structure SwapAt (len : List Nat) (limit m l a b c : Nat) : Prop where
  above : limit < m
  pos : 0 < l
  below : l < limit
  ne : b ≠ a
  a_lt : a < len.length
  b_lt : b < len.length
  c_lt : c < len.length
  at_a : len.getD a 0 = m
  at_b : len.getD b 0 = m
  at_c : len.getD c 0 = l

/-- A round that answers has swapped (R188, R190). -/
theorem limitRound_inv {len len' : List Nat} {limit m : Nat} (hm : limit < m)
    (h : limitRound len limit m = .ok len') :
    ∃ l a b c, SwapAt len limit m l a b c ∧ len' = swapLengths len m l a b c := by
  unfold limitRound at h
  split at h
  next => exact absurd h (by simp)
  next a ha =>
    split at h
    next => exact absurd h (by simp)
    next b hb =>
      dsimp only at h
      split at h
      next => exact absurd h (by simp)
      next hl =>
        split at h
        next => exact absurd h (by simp)
        next c hc =>
          obtain ⟨halt, haval⟩ := lowestIndex_some ha
          obtain ⟨hblt, hbval⟩ := lowestIndex_some hb
          obtain ⟨hclt, hcval⟩ := lowestIndex_some hc
          obtain ⟨hne, hbm⟩ := (Bool.and_eq_true _ _).mp hbval
          have hpos : 0 < belowLimit len limit := Nat.pos_of_ne_zero hl
          exact ⟨_, a, b, c, ⟨hm, hpos, (belowLimit_mem hpos).2, of_decide_eq_true hne, halt, hblt,
            hclt, of_decide_eq_true haval, of_decide_eq_true hbm, of_decide_eq_true hcval⟩,
            (Except.ok.inj h).symm⟩

/-- A round answers when two symbols have the greatest length and a used one is below the limit
(R190). -/
theorem limitRound_exists {len : List Nat} {limit m : Nat} (hm : 2 ≤ len.count m)
    (hl : 0 < belowLimit len limit) : ∃ len', limitRound len limit m = .ok len' := by
  obtain ⟨i, j, hij, hi, hj⟩ :=
    List.duplicate_iff_exists_distinct_get.1 (List.duplicate_iff_two_le_count.2 hm)
  have hget (k : Fin len.length) (hk : m = len.get k) : len.getD k 0 = m :=
    (List.getD_eq_getElem _ _ k.isLt).trans hk.symm
  obtain ⟨a, ha⟩ := lowestIndex_exists (cond := fun _ x => decide (x = m)) i.isLt
    (decide_eq_true (hget i hi))
  obtain ⟨k, hka, hk⟩ : ∃ k : Fin len.length, k.val ≠ a ∧ len.getD k 0 = m := by
    by_cases hia : i.val = a
    · exact ⟨j, by omega, hget j hj⟩
    · exact ⟨i, hia, hget i hi⟩
  obtain ⟨b, hb⟩ := lowestIndex_exists (cond := fun s x => decide (s ≠ a) && decide (x = m)) k.isLt
    (by simp only [hka, hk, ne_eq, not_false_eq_true, decide_true, Bool.and_self])
  obtain ⟨s, hs, hsl⟩ := exists_getD_of_mem (belowLimit_mem hl).1
  obtain ⟨c, hc⟩ := lowestIndex_exists (cond := fun _ x => decide (x = belowLimit len limit)) hs
    (decide_eq_true hsl)
  exact ⟨swapLengths len m (belowLimit len limit) a b c, by
    simp only [limitRound, ha, hb, hc, hl.ne', if_false]⟩

/-! ## What a round keeps -/

section Swap

variable {len : List Nat} {limit m l a b c : Nat}

/-- Writing one entry of a list exchanges its term in a sum over the list. -/
theorem sum_map_set (g : Nat → Nat) {i x : Nat} (v : Nat) (hi : i < len.length)
    (hx : len.getD i 0 = x) : g x + ((len.set i v).map g).sum = g v + (len.map g).sum := by
  have h := ((List.getD_set_perm_cons len i v).map g).sum_eq
  rw [List.getD_eq_getElem _ _ hi] at hx
  rwa [List.getElem?_eq_getElem hi, Option.getD_some, hx, List.map_cons, List.map_cons,
    List.sum_cons, List.sum_cons] at h

/-- Writing a nonzero length over a nonzero one changes no symbol's being used. -/
theorem pos_getD_set_iff {i v : Nat} (hv : 1 ≤ v) (hi : 1 ≤ len.getD i 0) (s : Nat) :
    1 ≤ (len.set i v).getD s 0 ↔ 1 ≤ len.getD s 0 := by
  by_cases hs : s = i
  · subst hs
    have hlt : s < len.length := by
      by_contra hge
      rw [List.getD_eq_default _ _ (Nat.le_of_not_lt hge)] at hi
      omega
    have hnew : (len.set s v).getD s 0 = v := by simp [List.getD_eq_getElem?_getD, hlt]
    rw [hnew]
    exact iff_of_true hv hi
  · simp only [List.getD_eq_getElem?_getD, List.getElem?_set_ne (Ne.symm hs)]

theorem swapLengths_length : (swapLengths len m l a b c).length = len.length := by
  simp [swapLengths]

namespace SwapAt

variable (h : SwapAt len limit m l a b c)
include h

theorem lt : l < m := h.below.trans h.above

theorem c_ne_a : c ≠ a := by
  rintro rfl
  exact h.lt.ne (h.at_c.symm.trans h.at_a)

theorem c_ne_b : c ≠ b := by
  rintro rfl
  exact h.lt.ne (h.at_c.symm.trans h.at_b)

/-- A round exchanges the terms of two `m` and an `l` for those of an `m - 1` and two `l + 1`
(R188). -/
theorem sum_map (g : Nat → Nat) :
    g m + g m + g l + ((swapLengths len m l a b c).map g).sum =
      g (m - 1) + g (l + 1) + g (l + 1) + (len.map g).sum := by
  have hc := sum_map_set g (l + 1) h.c_lt h.at_c
  have ha := sum_map_set (len := len.set c (l + 1)) (i := a) (x := m) g (l + 1)
    (by simpa using h.a_lt) (by simpa [List.getD_eq_getElem?_getD, h.c_ne_a] using h.at_a)
  have hb := sum_map_set (len := (len.set c (l + 1)).set a (l + 1)) (i := b) (x := m) g (m - 1)
    (by simpa using h.b_lt)
    (by simpa [List.getD_eq_getElem?_getD, h.c_ne_b, h.ne.symm] using h.at_b)
  unfold swapLengths
  omega

/-- A round lowers the excess by at least 2 (R191). -/
theorem excess_add_two_le : excess (swapLengths len m l a b c) limit + 2 ≤ excess len limit := by
  have hsum := h.sum_map fun x => x - limit
  have := h.above
  have := h.below
  simp only [excess]
  omega

/-- A round keeps the Kraft sum: `2^-l` is two halves, and so is `2^-(m-1)` (R188). -/
theorem kraftSum_eq {n : Nat} (hn : m ≤ n) :
    kraftSum (swapLengths len m l a b c) n = kraftSum len n := by
  have hsum := h.sum_map fun x => if x = 0 then 0 else 2 ^ (n - x)
  have hhalf (x : Nat) (hx : x < n) : 2 ^ (n - x) = 2 * 2 ^ (n - (x + 1)) := by
    rw [← pow_succ']
    congr 1
    omega
  have hpos := h.pos
  have habove := h.above
  have hbelow := h.below
  have hl := hhalf l (by omega)
  have hm := hhalf (m - 1) (by omega)
  rw [Nat.sub_add_cancel (by omega)] at hm
  simp only [show m ≠ 0 by omega, show l ≠ 0 by omega, show m - 1 ≠ 0 by omega, Nat.succ_ne_zero,
    if_false] at hsum
  simp only [kraftSum]
  omega

/-- Each new length is at most the greatest. -/
theorem le_of_mem_swap {n : Nat} (hn : m ≤ n) (hlen : ∀ x ∈ len, x ≤ n) :
    ∀ x ∈ swapLengths len m l a b c, x ≤ n := by
  intro x hx
  have hlt := h.lt
  rcases List.mem_or_eq_of_mem_set hx with hx | rfl
  · rcases List.mem_or_eq_of_mem_set hx with hx | rfl
    · rcases List.mem_or_eq_of_mem_set hx with hx | rfl
      · exact hlen x hx
      · omega
    · omega
  · omega

/-- A round leaves each used symbol a length and gives an unused one none. -/
theorem pos_getD_iff (s : Nat) :
    1 ≤ (swapLengths len m l a b c).getD s 0 ↔ 1 ≤ len.getD s 0 := by
  have hpos := h.pos
  have habove := h.above
  have hbelow := h.below
  have hc := pos_getD_set_iff (len := len) (i := c) (v := l + 1) (by omega) (by rw [h.at_c]; omega)
  have ha := pos_getD_set_iff (len := len.set c (l + 1)) (i := a) (v := l + 1) (by omega)
    ((hc a).2 (by rw [h.at_a]; omega))
  have hb := pos_getD_set_iff (i := b) (v := m - 1) (by omega)
    ((ha b).2 ((hc b).2 (by rw [h.at_b]; omega)))
  exact (hb s).trans ((ha s).trans (hc s))

end SwapAt
end Swap

/-! ## Lengths of Kraft sum 1 -/

/-- Lengths of at most `n` with Kraft sum 1 over the used symbols (R192). -/
structure Complete (len : List Nat) (n : Nat) : Prop where
  le : ∀ x ∈ len, x ≤ n
  sum : kraftSum len n = 2 ^ n

/-- The Kraft sum in smaller units. -/
theorem kraftSum_rescale {len : List Nat} {k n : Nat} (hle : ∀ x ∈ len, x ≤ k) (hkn : k ≤ n) :
    kraftSum len n = 2 ^ (n - k) * kraftSum len k := by
  rw [kraftSum, kraftSum, ← List.sum_map_mul_left]
  refine congrArg List.sum (List.map_congr_left fun x hx => ?_)
  have hxk := hle x hx
  rw [mul_ite, mul_zero, ← pow_add, show n - k + (k - x) = n - x by omega]

theorem Complete.rescale {len : List Nat} {k n : Nat} (h : Complete len n) (hkn : k ≤ n)
    (hle : ∀ x ∈ len, x ≤ k) : Complete len k := by
  refine ⟨hle, Nat.eq_of_mul_eq_mul_left (Nat.two_pow_pos (n - k)) ?_⟩
  rw [← kraftSum_rescale hle hkn, h.sum, ← pow_add, Nat.sub_add_cancel hkn]

/-- In units of the greatest length, only the symbols of that length have an odd term (R190). -/
theorem kraftSum_mod_two {len : List Nat} {m : Nat} (hm : 0 < m) (hle : ∀ x ∈ len, x ≤ m) :
    kraftSum len m % 2 = len.count m % 2 := by
  induction len with
  | nil => rfl
  | cons x len ih =>
    obtain ⟨hx, hlen⟩ := List.forall_mem_cons.1 hle
    have hcons : kraftSum (x :: len) m = (if x = 0 then 0 else 2 ^ (m - x)) + kraftSum len m := by
      simp [kraftSum]
    have hterm : (if x = 0 then 0 else 2 ^ (m - x)) % 2 = if x = m then 1 else 0 := by
      by_cases hxm : x = m
      · simp [hxm, hm.ne']
      · have hpow : 2 ^ (m - x) = 2 ^ (m - x - 1) * 2 := by
          rw [← pow_succ]
          congr 1
          omega
        rw [if_neg hxm]
        split
        · rfl
        · omega
    rw [hcons, List.count_cons, Nat.add_mod, hterm, ih hlen, Nat.add_mod_mod, Nat.add_comm]
    simp only [beq_iff_eq]

/-- Of the greatest length there are two symbols: their number is even (R190 (1)). -/
theorem Complete.two_le_count {len : List Nat} (h : Complete len (maxLength len))
    (hpos : 0 < maxLength len) : 2 ≤ len.count (maxLength len) := by
  have hparity := kraftSum_mod_two hpos h.le
  have heven : 2 ^ maxLength len % 2 = 0 := Nat.mod_eq_zero_of_dvd (dvd_pow_self 2 hpos.ne')
  have hone : 0 < len.count (maxLength len) := List.count_pos_iff.2 (maxLength_mem hpos)
  rw [h.sum, heven] at hparity
  omega

/-- Some used symbol is below the limit: else the Kraft sum would be below `n · 2^-limit`, which is at
most 1 (R190 (2)). -/
theorem Complete.belowLimit_pos {len : List Nat} {limit : Nat} (h : Complete len (maxLength len))
    (hlen : len.length ≤ 2 ^ limit) (habove : limit < maxLength len) :
    0 < belowLimit len limit := by
  by_contra hnone
  have hzero := Nat.le_zero.1 (Nat.le_of_not_lt hnone)
  have hterm : ∀ x ∈ len,
      (if x = 0 then 0 else 2 ^ (maxLength len - x)) ≤ 2 ^ (maxLength len - limit) := by
    intro x hx
    split
    next => exact Nat.zero_le _
    next hx0 =>
      have hge : limit ≤ x := Nat.le_of_not_lt fun hlt => hx0 (eq_zero_of_belowLimit hzero hx hlt)
      exact Nat.pow_le_pow_right two_pos (by omega)
  have hstrict : (if maxLength len = 0 then 0 else 2 ^ (maxLength len - maxLength len)) <
      2 ^ (maxLength len - limit) := by
    rw [if_neg (by omega)]
    exact Nat.pow_lt_pow_right one_lt_two (by omega)
  have hsum : kraftSum len (maxLength len) < len.length * 2 ^ (maxLength len - limit) := by
    simpa [kraftSum] using List.sum_lt_sum _ (fun _ => 2 ^ (maxLength len - limit)) hterm
      ⟨_, maxLength_mem (by omega), hstrict⟩
  have hbound := Nat.mul_le_mul_right (2 ^ (maxLength len - limit)) hlen
  rw [← pow_add, show limit + (maxLength len - limit) = maxLength len by omega, ← h.sum] at hbound
  omega

/-- On lengths of Kraft sum 1 a round answers, and keeps what R192 says of them (R188, R190, R191). -/
theorem Complete.limitRound_ok {len : List Nat} {limit n : Nat} (h : Complete len n)
    (hlen : len.length ≤ 2 ^ limit) (habove : limit < maxLength len) :
    ∃ len', limitRound len limit (maxLength len) = .ok len' ∧ len'.length = len.length ∧
      Complete len' n ∧ excess len' limit < excess len limit ∧
      ∀ s, 1 ≤ len'.getD s 0 ↔ 1 ≤ len.getD s 0 := by
  have hmn : maxLength len ≤ n := maxLength_le_iff.2 h.le
  have hmax : Complete len (maxLength len) := h.rescale hmn fun _ => le_maxLength
  obtain ⟨len', hround⟩ := limitRound_exists (hmax.two_le_count (by omega))
    (hmax.belowLimit_pos hlen habove)
  obtain ⟨l, a, b, c, hswap, rfl⟩ := limitRound_inv habove hround
  have hcomplete : Complete (swapLengths len (maxLength len) l a b c) n :=
    ⟨hswap.le_of_mem_swap hmn h.le, (hswap.kraftSum_eq hmn).trans h.sum⟩
  exact ⟨_, hround, swapLengths_length, hcomplete,
    Nat.lt_of_succ_lt hswap.excess_add_two_le, hswap.pos_getD_iff⟩

/-! ## The rounds -/

theorem limitRounds_of_le {len : List Nat} {limit : Nat} (n : Nat) (h : ∀ x ∈ len, x ≤ limit) :
    limitRounds n len limit = .ok len := by
  cases n with
  | zero => rfl
  | succ n => exact if_pos (maxLength_le_iff.2 h)

/-- As many rounds as the excess bring lengths of Kraft sum 1 within the limit (R191, R192). -/
theorem Complete.limitRounds_ok {len : List Nat} {limit n : Nat} (rounds : Nat) (h : Complete len n)
    (hlen : len.length ≤ 2 ^ limit) (hrounds : excess len limit ≤ rounds) :
    ∃ len', limitRounds rounds len limit = .ok len' ∧ len'.length = len.length ∧
      (∀ x ∈ len', x ≤ limit) ∧ Complete len' n ∧
      ∀ s, 1 ≤ len'.getD s 0 ↔ 1 ≤ len.getD s 0 := by
  induction rounds generalizing len with
  | zero =>
    exact ⟨len, rfl, rfl, excess_eq_zero_iff.1 (Nat.le_zero.1 hrounds), h, fun _ => Iff.rfl⟩
  | succ rounds ih =>
    by_cases hmax : maxLength len ≤ limit
    · have hle := maxLength_le_iff.1 hmax
      exact ⟨len, limitRounds_of_le _ hle, rfl, hle, h, fun _ => Iff.rfl⟩
    · obtain ⟨len₁, hround, hlen₁, hcomplete₁, hexcess, hused₁⟩ :=
        h.limitRound_ok hlen (Nat.lt_of_not_le hmax)
      obtain ⟨len', hrest, hlen', hle, hcomplete, hused⟩ :=
        ih hcomplete₁ (hlen₁ ▸ hlen) (by omega)
      refine ⟨len', ?_, hlen'.trans hlen₁, hle, hcomplete, fun s => (hused s).trans (hused₁ s)⟩
      rw [limitRounds, if_neg hmax, hround]
      exact hrest

/-! ## The limited lengths -/

theorem Tree.rootDepth_eq_zero_iff {t : Tree} : t.rootDepth = 0 ↔ 2 ≤ t.symbols.length := by
  have hpos : ∀ t : Tree, 1 ≤ t.symbols.length := fun t => by
    induction t with
    | leaf => exact le_rfl
    | node l r ihl _ => exact ihl.trans (by simp [Tree.symbols])
  cases t with
  | leaf => simp [Tree.rootDepth, Tree.symbols]
  | node l r =>
    have := hpos l
    have := hpos r
    exact iff_of_true rfl (by simp only [Tree.symbols, List.length_append]; omega)

theorem Tree.rootDepth_of_single {t : Tree} (h : t.symbols.length = 1) : t.rootDepth = 1 := by
  cases t with
  | leaf => rfl
  | node l r => exact absurd (Tree.rootDepth_eq_zero_iff (t := .node l r).1 rfl) (by omega)

theorem Tree.lengths_pos_iff {t : Tree} {n s : Nat} (hnodup : t.symbols.Nodup) (hs : s < n) :
    1 ≤ (t.lengths n).getD s 0 ↔ s ∈ t.symbols := by
  rw [← Tree.depthOf_leaves_pos hnodup, t.lengths_eq]
  simp [List.getD_eq_getElem?_getD, hs, Nat.one_le_iff_ne_zero, Nat.pos_iff_ne_zero]

theorem Tree.leaf_lengths_le_one {sym n : Nat} : ∀ x ∈ (Tree.leaf sym).lengths n, x ≤ 1 := by
  intro x hx
  obtain ⟨s, -, rfl⟩ := List.mem_map.1 hx
  split <;> omega

/-- The limiter on a tree's lengths: the rounds bring those of two leaves or more, whose Kraft sum is
1, within the limit; the length 1 of a single leaf is within it already (R192). -/
theorem enforceMaxLength_tree {t : Tree} {n limit : Nat} (hlimit : 1 ≤ limit) (hn : n ≤ 2 ^ limit)
    (hnodup : t.symbols.Nodup) (hlt : ∀ s ∈ t.symbols, s < n) :
    ∃ len, enforceMaxLength (t.lengths n) limit = .ok len ∧ len.length = n ∧
      (∀ x ∈ len, x ≤ limit) ∧ (∀ s, 1 ≤ len.getD s 0 ↔ 1 ≤ (t.lengths n).getD s 0) ∧
      kraftSum len limit = 2 ^ (limit - t.rootDepth) := by
  cases t with
  | leaf sym =>
    have hle : ∀ x ∈ (Tree.leaf sym).lengths n, x ≤ limit := fun x hx =>
      (Tree.leaf_lengths_le_one x hx).trans hlimit
    exact ⟨_, limitRounds_of_le _ hle, Tree.lengths_length _ n, hle, fun _ => Iff.rfl,
      Tree.kraftSum_lengths hnodup hlt hle⟩
  | node l r =>
    have hle : ∀ x ∈ (Tree.node l r).lengths n,
        x ≤ max limit (maxLength ((Tree.node l r).lengths n)) := fun x hx =>
      (le_maxLength hx).trans (le_max_right _ _)
    have hcomplete : Complete ((Tree.node l r).lengths n) _ :=
      ⟨hle, Tree.kraftSum_lengths hnodup hlt hle⟩
    obtain ⟨len, hlen, hlength, hwithin, hcomplete', hused⟩ :=
      hcomplete.limitRounds_ok (limit := limit) _ ((Tree.lengths_length _ n).trans_le hn) le_rfl
    exact ⟨len, hlen, hlength.trans (Tree.lengths_length _ n), hwithin, hused,
      (hcomplete'.rescale (le_max_left _ _) hwithin).sum⟩

/-! The theorem has a namespace of its own: `Machine.limitedLengths` is the function. -/

namespace Huffman

/-- Settles O47: BUILD_LENGTHS gives the lengths of a tree of the used symbols, and the limiter keeps
what the tree says of them. -/
theorem limitedLengths : Obligations.LimitedLengths := by
  intro f limit hlimit hsize hused
  obtain ⟨t, hbuild, hsym⟩ := buildLengths_tree hused
  have hnodup : t.symbols.Nodup := hsym.nodup_iff.2 (usedIndices_nodup f)
  have hlt : ∀ s ∈ t.symbols, s < f.length := fun s hs =>
    lt_length_of_mem_usedIndices (hsym.mem_iff.1 hs)
  have hcount : t.symbols.length = usedCount f := hsym.length_eq.trans (usedIndices_length f)
  obtain ⟨len, hlen, hlength, hwithin, hpos, hkraft⟩ :=
    enforceMaxLength_tree hlimit hsize hnodup hlt
  refine ⟨len, ?_, hlength, hwithin, fun s hs => ?_, fun htwo => ?_, fun hone => ?_⟩
  · rw [Machine.limitedLengths, hbuild]
    exact hlen
  · rw [hpos, Tree.lengths_pos_iff hnodup hs, hsym.mem_iff, mem_usedIndices]
  · rw [hkraft, Tree.rootDepth_eq_zero_iff.2 (hcount ▸ htwo), Nat.sub_zero]
  · rw [hkraft, Tree.rootDepth_of_single (hcount.trans hone)]

end Huffman

end Sys2Proof.Machine
end

section
/-! SUPPORT. BUILD_CODES (R210): a symbol's code is the first of its length plus the number of
symbols of that length before it; the Kraft sum bounds the codes of each length. With it the proofs
of O49 and O50. -/

namespace Sys2Proof.Machine

/-! ## The bits of a code -/

@[simp] theorem fieldBits_getElem (v n i : Nat) (h : i < (fieldBits v n).length) :
    (fieldBits v n)[i] = v.testBit i := by
  simp [fieldBits]

theorem bitsValue_fieldBits {v n : Nat} (h : v < 2 ^ n) : bitsValue (fieldBits v n) = v := by
  refine Nat.eq_of_testBit_eq fun i => ?_
  rw [testBit_bitsValue]
  by_cases hi : i < n
  · rw [List.getD_eq_getElem _ _ ((length_fieldBits v n).symm ▸ hi), fieldBits_getElem]
  · rw [List.getD_eq_default _ _ ((length_fieldBits v n).symm ▸ Nat.le_of_not_lt hi),
      Nat.testBit_lt_two_pow (h.trans_le (Nat.pow_le_pow_right two_pos (Nat.le_of_not_lt hi)))]

theorem codeBits_inj {c d n : Nat} (hc : c < 2 ^ n) (hd : d < 2 ^ n)
    (h : codeBits c n = codeBits d n) : c = d := by
  have hbits : fieldBits c n = fieldBits d n := List.reverse_injective h
  rw [← bitsValue_fieldBits hc, hbits, bitsValue_fieldBits hd]

/-- The low `k` bits of a field, then the rest. -/
theorem fieldBits_add (v k n : Nat) :
    fieldBits v (k + n) = fieldBits v k ++ fieldBits (v / 2 ^ k) n := by
  simp [fieldBits, List.range_add, Nat.testBit_div_two_pow, Function.comp_def, Nat.add_comm]

/-- The first `n` bits of a code of `n + k` bits are the code without its low `k` bits (R271). -/
theorem codeBits_add (c n k : Nat) :
    codeBits c (n + k) = codeBits (c / 2 ^ k) n ++ codeBits c k := by
  rw [Nat.add_comm, codeBits, fieldBits_add, List.reverse_append, codeBits, codeBits]

/-- A code whose bits begin another code's is the other without its low bits. -/
theorem eq_div_of_codeBits_append {c d n m : Nat} {more : List Bool} (hc : c < 2 ^ n)
    (hd : d < 2 ^ m) (h : codeBits c n ++ more = codeBits d m) : n ≤ m ∧ c = d / 2 ^ (m - n) := by
  have hlen : n + more.length = m := by simpa using congrArg List.length h
  subst hlen
  rw [codeBits_add] at h
  rw [Nat.add_sub_cancel_left]
  refine ⟨Nat.le_add_right n _, codeBits_inj hc ?_ (List.append_inj_left h (by simp))⟩
  exact Nat.div_lt_of_lt_mul (by rwa [← pow_add, Nat.add_comm])

/-! ## The code of a symbol -/

theorem assignCodes_length (next len : List Nat) : (assignCodes next len).length = len.length := by
  induction len generalizing next with
  | nil => rfl
  | cons l rest ih =>
    rw [assignCodes]
    split <;> simp [ih]

theorem getD_set {l : List Nat} {i j v : Nat} (hj : j < l.length) :
    (l.set i v).getD j 0 = if i = j then v else l.getD j 0 := by
  rw [List.getD_eq_getElem _ _ (by simpa using hj), List.getElem_set, List.getD_eq_getElem _ _ hj]

/-- The assignment loop gives a used symbol the next code of its length, counted on by the symbols
of that length before it (R210). -/
theorem assignCodes_getD {next len : List Nat} {s : Nat} (hs : s < len.length)
    (hpos : 0 < len.getD s 0) (hnext : len.getD s 0 < next.length) :
    (assignCodes next len).getD s 0 =
      next.getD (len.getD s 0) 0 + (len.take s).count (len.getD s 0) := by
  induction len generalizing next s with
  | nil => exact absurd hs (Nat.not_lt_zero s)
  | cons l rest ih =>
    cases s with
    | zero =>
      rw [List.getD_cons_zero] at hpos ⊢
      rw [assignCodes, if_neg hpos.ne']
      simp
    | succ s =>
      rw [List.getD_cons_succ] at hpos hnext ⊢
      have hs' : s < rest.length := Nat.lt_of_succ_lt_succ hs
      rw [List.take_succ_cons, List.count_cons, assignCodes]
      split
      next hl =>
        subst hl
        rw [List.getD_cons_succ, ih hs' hpos hnext, if_neg (by simpa using hpos.ne), Nat.add_zero]
      next =>
        rw [List.getD_cons_succ, ih hs' hpos (by simpa using hnext)]
        rw [getD_set hnext]
        simp only [beq_iff_eq]
        split
        next hl => rw [hl]; omega
        next => omega

theorem buildCodes_length (len : List Nat) : (buildCodes len).length = len.length :=
  assignCodes_length _ len

/-- The code of a used symbol (R210). -/
theorem buildCodes_getD {len : List Nat} {s : Nat} (hs : s < len.length)
    (hpos : 0 < len.getD s 0) (hle : len.getD s 0 ≤ 15) :
    (buildCodes len).getD s 0 =
      firstCode len (len.getD s 0) + (len.take s).count (len.getD s 0) := by
  have hlt : len.getD s 0 < 16 := Nat.lt_succ_of_le hle
  have hfirst : ((List.range 16).map (firstCode len)).getD (len.getD s 0) 0 =
      firstCode len (len.getD s 0) := by
    rw [List.getD_eq_getElem _ _ (by simpa using hlt)]
    simp
  rw [buildCodes, assignCodes_getD hs hpos (by simpa using hlt), hfirst]

theorem getD_le {len : List Nat} {k s : Nat} (hle : ∀ x ∈ len, x ≤ k) (hs : s < len.length) :
    len.getD s 0 ≤ k :=
  List.getD_eq_getElem len 0 hs ▸ hle _ (List.getElem_mem hs)

/-- The symbols of a length before `t` are those before `s` and those from `s` on. -/
theorem count_take_of_le (len : List Nat) (l : Nat) {s t : Nat} (h : s ≤ t) :
    (len.take t).count l = (len.take s).count l + ((len.take t).drop s).count l := by
  rw [← List.count_append, ← Nat.min_eq_left h, ← List.take_take, Nat.min_eq_left h,
    List.take_append_drop]

/-- Between two positions stands at least the first of them. -/
theorem count_take_drop_pos {len : List Nat} {s t : Nat} (hs : s < len.length) (h : s < t) :
    0 < ((len.take t).drop s).count (len.getD s 0) := by
  have hlt : s < (len.take t).length := by simpa using ⟨h, hs⟩
  rw [List.drop_eq_getElem_cons hlt, List.getElem_take, List.getD_eq_getElem _ _ hs,
    List.count_cons_self]
  exact Nat.succ_pos _

/-! ## The codes of each length -/

/-- The code after the last one of length `l` (R210). -/
def endCode (len : List Nat) (l : Nat) : Nat := firstCode len l + countLength len l

theorem firstCode_succ (len : List Nat) (l : Nat) : firstCode len (l + 1) = endCode len l * 2 := rfl

/-- A longer length starts where a shorter one ended, padded with zeros. -/
theorem endCode_mul_le_firstCode (len : List Nat) {l m : Nat} (h : l < m) :
    endCode len l * 2 ^ (m - l) ≤ firstCode len m := by
  induction m, h using Nat.le_induction with
  | base => rw [Nat.succ_eq_add_one, Nat.add_sub_cancel_left, pow_one, firstCode_succ]
  | succ m hlm ih =>
    calc endCode len l * 2 ^ (m + 1 - l)
        = endCode len l * 2 ^ (m - l) * 2 := by
          rw [Nat.succ_sub (Nat.le_of_succ_le hlm), pow_succ, Nat.mul_assoc]
      _ ≤ endCode len m * 2 := Nat.mul_le_mul_right 2 (ih.trans (Nat.le_add_right _ _))
      _ = firstCode len (m + 1) := (firstCode_succ len m).symm

theorem kraftSum_cons (x : Nat) (len : List Nat) (n : Nat) :
    kraftSum (x :: len) n = (if x = 0 then 0 else 2 ^ (n - x)) + kraftSum len n := by
  simp [kraftSum]

/-- Lengths of at most `l + 1` have the Kraft sum of those of at most `l` and a term for each of
length `l + 1`. -/
theorem kraftSum_filter_succ (len : List Nat) (n l : Nat) :
    kraftSum (len.filter (· ≤ l + 1)) n =
      kraftSum (len.filter (· ≤ l)) n + len.count (l + 1) * 2 ^ (n - (l + 1)) := by
  induction len with
  | nil => simp [kraftSum]
  | cons x len ih =>
    rcases lt_trichotomy x (l + 1) with hx | rfl | hx
    · simp [kraftSum_cons, ih, hx.le, Nat.le_of_lt_succ hx, hx.ne, Nat.add_assoc]
    · simp [kraftSum_cons, ih, Nat.add_mul]
      omega
    · simp [ih, hx.not_ge, hx.ne', show ¬x ≤ l by omega]

/-- In units of `2^-n`, the codes of up to length `l` end at the Kraft sum of their lengths. -/
theorem endCode_mul {len : List Nat} {n l : Nat} (h : l ≤ n) :
    endCode len l * 2 ^ (n - l) = kraftSum (len.filter (· ≤ l)) n := by
  induction l with
  | zero =>
    have hzero : ∀ x ∈ len.filter (· ≤ 0), (if x = 0 then 0 else 2 ^ (n - x)) = 0 := by simp
    rw [kraftSum, List.map_congr_left hzero]
    simp [endCode, firstCode, countLength]
  | succ l ih =>
    have hpow : 2 ^ (n - l) = 2 * 2 ^ (n - (l + 1)) := by
      rw [← pow_succ']
      congr 1
      omega
    rw [kraftSum_filter_succ, ← ih (Nat.le_of_succ_le h), hpow, endCode, firstCode_succ,
      Nat.add_mul, Nat.mul_assoc, countLength, if_neg l.succ_ne_zero]

/-- With Kraft sum at most 1 there is room for the codes of each length. -/
theorem endCode_le {len : List Nat} {n l : Nat} (hkraft : kraftSum len n ≤ 2 ^ n) (h : l ≤ n) :
    endCode len l ≤ 2 ^ l := by
  have hfilter : kraftSum (len.filter (· ≤ l)) n ≤ kraftSum len n :=
    (List.filter_sublist.map _).sum_le_sum fun _ _ => Nat.zero_le _
  refine Nat.le_of_mul_le_mul_right ?_ (Nat.two_pow_pos (n - l))
  rw [endCode_mul h, ← pow_add, Nat.add_sub_cancel' h]
  exact hfilter.trans hkraft

/-! ## Codes of one length, and of a shorter and a longer one (R211) -/

section Codes

variable {len : List Nat} {s t : Nat} (hle : ∀ x ∈ len, x ≤ 15) (hs : s < len.length)
  (ht : t < len.length) (hpos : 0 < len.getD s 0) (hpos' : 0 < len.getD t 0)
include hle hs hpos

theorem buildCodes_eq : (buildCodes len).getD s 0 =
    firstCode len (len.getD s 0) + (len.take s).count (len.getD s 0) :=
  buildCodes_getD hs hpos (getD_le hle hs)

/-- A code is below the end of its length: the symbol counts itself. -/
theorem buildCodes_lt_endCode : (buildCodes len).getD s 0 < endCode len (len.getD s 0) := by
  have hcount := count_take_of_le len (len.getD s 0) hs.le
  have hself := count_take_drop_pos hs hs
  rw [List.take_length] at hcount hself
  rw [buildCodes_eq hle hs hpos, endCode, countLength, if_neg hpos.ne', hcount]
  omega

include ht hpos'

/-- Codes of one length are consecutive (R211 (b)). -/
theorem buildCodes_consecutive (hst : s < t) (heq : len.getD s 0 = len.getD t 0) :
    (buildCodes len).getD t 0 =
      (buildCodes len).getD s 0 + ((len.take t).drop s).count (len.getD s 0) := by
  rw [buildCodes_eq hle ht hpos', buildCodes_eq hle hs hpos, ← heq,
    count_take_of_le len _ hst.le, Nat.add_assoc]

/-- A longer code is beyond all that begin with a shorter one (R211 (c)). -/
theorem buildCodes_succ_mul_le (hlt : len.getD s 0 < len.getD t 0) :
    ((buildCodes len).getD s 0 + 1) * 2 ^ (len.getD t 0 - len.getD s 0) ≤
      (buildCodes len).getD t 0 := by
  calc _ ≤ endCode len (len.getD s 0) * 2 ^ (len.getD t 0 - len.getD s 0) :=
        Nat.mul_le_mul_right _ (buildCodes_lt_endCode hle hs hpos)
    _ ≤ firstCode len (len.getD t 0) := endCode_mul_le_firstCode len hlt
    _ ≤ (buildCodes len).getD t 0 := buildCodes_eq hle ht hpos' ▸ Nat.le_add_right _ _

/-- Of two symbols, a code at least as long without its low bits is not the other's. -/
theorem buildCodes_ne_div (hne : s ≠ t) (hst : len.getD s 0 ≤ len.getD t 0) :
    (buildCodes len).getD s 0 ≠
      (buildCodes len).getD t 0 / 2 ^ (len.getD t 0 - len.getD s 0) := by
  rcases hst.lt_or_eq with hlt | heq
  · have hbeyond := (Nat.le_div_iff_mul_le (Nat.two_pow_pos _)).2
      (buildCodes_succ_mul_le hle hs ht hpos hpos' hlt)
    exact (Nat.lt_of_succ_le hbeyond).ne
  · rw [← heq, Nat.sub_self, pow_zero, Nat.div_one]
    rcases Nat.lt_or_gt_of_ne hne with hst | hts
    · have hnext := buildCodes_consecutive hle hs ht hpos hpos' hst heq
      have hcount := count_take_drop_pos hs hst
      omega
    · have hnext := buildCodes_consecutive hle ht hs hpos' hpos hts heq.symm
      have hcount := count_take_drop_pos ht hts
      omega

end Codes

/-- Settles O49: a code is its length's first code and the number of its length's symbols before it;
the Kraft sum leaves each length room, and a longer length starts where the shorter ones end. -/
theorem canonicalCodes : Obligations.CanonicalCodes := by
  intro len hle hkraft
  have hbound : ∀ s, s < len.length → 0 < len.getD s 0 →
      (buildCodes len).getD s 0 < 2 ^ len.getD s 0 := fun s hs hpos =>
    (buildCodes_lt_endCode hle hs hpos).trans_le
      (endCode_le hkraft (getD_le hle hs))
  refine ⟨buildCodes_length len, fun s t hs ht hpos hpos' => ⟨hbound s hs hpos,
    buildCodes_consecutive hle hs ht hpos hpos', fun hlt => ?_, fun hne more hbits => ?_⟩⟩
  · have hbeyond := buildCodes_succ_mul_le hle hs ht hpos hpos' hlt
    rw [Nat.succ_mul] at hbeyond
    have hpad := Nat.two_pow_pos (len.getD t 0 - len.getD s 0)
    omega
  · obtain ⟨hlen, hdiv⟩ :=
      eq_div_of_codeBits_append (hbound s hs hpos) (hbound t ht hpos') hbits
    exact buildCodes_ne_div hle hs ht hpos hpos' hne hlen hdiv

/-! ## The fixed codes -/

/-- In a row of symbols of one length, a table gives each symbol that length, and codes that count
on from the row's first. -/
theorem entry_row {len before after : List Nat} {l count start first s n : Nat}
    (hlen : len = before ++ (List.replicate count l ++ after)) (hstart : before.length = start)
    (hfirst : firstCode len l + before.count l = first) (hl : 0 < l) (hle : l ≤ 15)
    (hfit : first + count ≤ 2 ^ 15) (hfrom : start ≤ s) (hto : s < start + count) (hn : s < n) :
    (entry (packTable 4 n len) s).toNat = l ∧
      (entry (packTable 15 n (buildCodes len)) s).toNat = first + (s - start) := by
  subst hstart
  have hs : s < len.length := by
    rw [hlen, List.length_append, List.length_append, List.length_replicate]
    omega
  have hoffset : s - before.length < (List.replicate count l).length := by
    rw [List.length_replicate]
    omega
  have hget : len.getD s 0 = l := by
    rw [hlen, List.getD_append_right _ _ _ _ hfrom, List.getD_append _ _ _ _ hoffset,
      List.getD_eq_getElem _ _ hoffset, List.getElem_replicate]
  have hcount : (len.take s).count l = before.count l + (s - before.length) := by
    rw [hlen, List.take_append, List.take_of_length_le hfrom,
      List.take_append_of_le_length hoffset.le, List.take_replicate, List.count_append,
      List.count_replicate_self, Nat.min_eq_left (by omega)]
  have hcode := buildCodes_getD hs (hget.symm ▸ hl) (hget.symm ▸ hle)
  rw [hget, hcount, ← Nat.add_assoc, hfirst] at hcode
  rw [entry_packTable _ hn, entry_packTable _ hn, hget, hcode, BitVec.toNat_ofNat,
    BitVec.toNat_ofNat]
  exact ⟨Nat.mod_eq_of_lt (by omega), Nat.mod_eq_of_lt (by omega)⟩

/-- How many symbols have each length in the fixed literal/length code (R241). -/
theorem count_fixedLenLL (l : Nat) : fixedLenLL.count l =
    (if l = 8 then 152 else 0) + (if l = 9 then 112 else 0) + (if l = 7 then 24 else 0) := by
  simp only [fixedLenLL, List.count_append, List.count_replicate, beq_iff_eq, eq_comm (a := l),
    -List.reduceReplicate]
  split <;> omega

/-- The first codes of the fixed literal/length code (R241). -/
theorem firstCode_fixedLenLL :
    firstCode fixedLenLL 7 = 0 ∧ firstCode fixedLenLL 8 = 0x30 ∧
      firstCode fixedLenLL 9 = 0x190 := by
  simp [firstCode, countLength, count_fixedLenLL]

theorem firstCode_fixedLenD : firstCode fixedLenD 5 = 0 := by
  simp [firstCode, countLength, fixedLenD]

/-- The rows of the fixed literal/length code, each as what is before it, the row and the rest. -/
theorem fixedLenLL_rows :
    fixedLenLL = [] ++ (List.replicate 144 8 ++
      (List.replicate 112 9 ++ (List.replicate 24 7 ++ List.replicate 8 8))) ∧
    fixedLenLL = List.replicate 144 8 ++ (List.replicate 112 9 ++
      (List.replicate 24 7 ++ List.replicate 8 8)) ∧
    fixedLenLL = (List.replicate 144 8 ++ List.replicate 112 9) ++ (List.replicate 24 7 ++
      List.replicate 8 8) ∧
    fixedLenLL = (List.replicate 144 8 ++ List.replicate 112 9 ++ List.replicate 24 7) ++
      (List.replicate 8 8 ++ []) := by
  simp only [fixedLenLL, List.append_assoc, List.nil_append, List.append_nil, and_self,
    -List.reduceReplicate]

/-- Settles O50: each row of R212 is a row of one length in the fixed lengths (R241). -/
theorem fixedCodes : Obligations.FixedCodes := by
  obtain ⟨hfirst7, hfirst8, hfirst9⟩ := firstCode_fixedLenLL
  obtain ⟨hrow1, hrow2, hrow3, hrow4⟩ := fixedLenLL_rows
  refine ⟨fun s hto => ?_, fun s hto hfrom => ?_, fun s hto hfrom => ?_, fun s hto hfrom => ?_,
    fun s hto => ?_⟩
  · exact entry_row hrow1 List.length_nil (by simp [hfirst8]) (by decide) (by decide)
      (by decide) (Nat.zero_le s) (by omega) (by omega)
  · exact entry_row hrow2 List.length_replicate
      (by simp [hfirst9, List.count_replicate, -List.reduceReplicate])
      (by decide) (by decide) (by decide) hfrom hto (by omega)
  · exact (entry_row (start := 256) hrow3 (by simp [-List.reduceReplicate])
      (by simp [hfirst7, List.count_replicate, -List.reduceReplicate])
      (by decide) (by decide) (by decide) hfrom hto (by omega)).imp_right
        fun hcode => hcode.trans (Nat.zero_add _)
  · exact entry_row hrow4 (by simp [-List.reduceReplicate])
      (by simp [hfirst8, List.count_replicate, -List.reduceReplicate])
      (by decide) (by decide) (by decide) hfrom hto hto
  · exact (entry_row (len := fixedLenD) (before := []) (l := 5) (count := 30)
      (List.append_nil _).symm List.length_nil (by simp [firstCode_fixedLenD])
      (by decide) (by decide) (by decide) (Nat.zero_le s) (by omega) hto).imp_right
        fun hcode => hcode.trans (Nat.zero_add _)

end Sys2Proof.Machine
end

section
/-! SUPPORT. The code-length encoder ENCODE_CL_STREAM (R220 to R223): what its symbols expand to,
and which symbols a run of zeros and a run of a nonzero length are coded in. With it the proof of
O51. -/

namespace Sys2Proof.Machine

/-! ## Expanding a stream -/

section Lengths

variable (before : List Nat) (v xv xb : Nat)

theorem lengths_literal {v : Nat} (h : v ≤ 15) : ClSym.lengths ⟨v, xv, xb⟩ before = [v] := if_pos h

@[simp] theorem lengths_repeat :
    ClSym.lengths ⟨16, xv, xb⟩ before = List.replicate (3 + xv) (before.headD 0) := rfl

@[simp] theorem lengths_zeros :
    ClSym.lengths ⟨17, xv, xb⟩ before = List.replicate (3 + xv) 0 := rfl

@[simp] theorem lengths_manyZeros :
    ClSym.lengths ⟨18, xv, xb⟩ before = List.replicate (11 + xv) 0 := rfl

end Lengths

/-- Every CL Symbol stands for at least one length. -/
theorem length_lengths_pos (e : ClSym) (before : List Nat) :
    1 ≤ (ClSym.lengths e before).length := by
  unfold ClSym.lengths
  split_ifs <;> simp only [List.length_replicate, List.length_singleton] <;> omega

@[simp] theorem expandCl_nil (before : List Nat) : expandCl [] before = [] := rfl

theorem expandCl_cons (e : ClSym) (cls : List ClSym) (before : List Nat) :
    expandCl (e :: cls) before =
      ClSym.lengths e before ++ expandCl cls ((ClSym.lengths e before).reverse ++ before) := rfl

theorem expandCl_append (cls₁ cls₂ : List ClSym) (before : List Nat) :
    expandCl (cls₁ ++ cls₂) before =
      expandCl cls₁ before ++ expandCl cls₂ ((expandCl cls₁ before).reverse ++ before) := by
  induction cls₁ generalizing before with
  | nil => rfl
  | cons e cls ih => simp [expandCl_cons, ih]

/-- A stream is no longer than the lengths it stands for. -/
theorem length_le_expandCl (cls : List ClSym) (before : List Nat) :
    cls.length ≤ (expandCl cls before).length := by
  induction cls generalizing before with
  | nil => exact Nat.zero_le _
  | cons e cls ih =>
    have hpos := length_lengths_pos e before
    have hrest := ih ((ClSym.lengths e before).reverse ++ before)
    rw [expandCl_cons, List.length_append, List.length_cons]
    omega

/-! ## The runs of the lengths -/

/-- A value lengthens the first run, when it has that run's value, or begins a run (R221). -/
theorem runsOf_cons (v : Nat) (rest : List Nat) :
    (∃ k more, runsOf rest = (v, k) :: more ∧ runsOf (v :: rest) = (v, k + 1) :: more) ∨
      runsOf (v :: rest) = (v, 1) :: runsOf rest := by
  cases hruns : runsOf rest with
  | nil => exact .inr (by simp [runsOf, hruns])
  | cons run more =>
    obtain ⟨w, k⟩ := run
    by_cases hv : v = w
    · exact .inl ⟨k, more, by rw [hv], by simp [runsOf, hruns, hv]⟩
    · exact .inr (by simp [runsOf, hruns, hv])

/-- The runs, written out one after another, are the lengths (R221). -/
theorem runsOf_flatMap (lens : List Nat) :
    ((runsOf lens).flatMap fun e => List.replicate e.2 e.1) = lens := by
  induction lens with
  | nil => rfl
  | cons v rest ih =>
    obtain ⟨k, more, hrest, hcons⟩ | hcons := runsOf_cons v rest
    · rw [hrest, List.flatMap_cons] at ih
      rw [hcons, List.flatMap_cons, List.replicate_succ, List.cons_append, ih]
    · rw [hcons, List.flatMap_cons, ih, List.replicate_one, List.singleton_append]

theorem one_le_of_mem_runsOf {lens : List Nat} {e : Nat × Nat} (h : e ∈ runsOf lens) :
    1 ≤ e.2 := by
  induction lens generalizing e with
  | nil => cases h
  | cons v rest ih =>
    obtain ⟨k, more, hrest, hcons⟩ | hcons := runsOf_cons v rest
    · obtain rfl | hmore := List.mem_cons.1 (hcons ▸ h)
      · exact Nat.le_add_left 1 k
      · exact ih (hrest ▸ List.mem_cons_of_mem _ hmore)
    · obtain rfl | hold := List.mem_cons.1 (hcons ▸ h)
      · exact Nat.le_refl 1
      · exact ih hold

/-- A run's value is one of the lengths. -/
theorem fst_mem_of_mem_runsOf {lens : List Nat} {e : Nat × Nat} (h : e ∈ runsOf lens) :
    e.1 ∈ lens := by
  rw [← runsOf_flatMap lens]
  exact List.mem_flatMap.2 ⟨e, h, List.mem_replicate.2
    ⟨Nat.one_le_iff_ne_zero.1 (one_le_of_mem_runsOf h), rfl⟩⟩

/-! ## The coding of a run, case by case -/

theorem zeroTail_of_le {r : Nat} (h : 3 ≤ r) : zeroTail r = [⟨17, r - 3, 3⟩] := if_pos h

theorem zeroTail_of_lt {r : Nat} (h : r < 3) : zeroTail r = List.replicate r ⟨0, 0, 0⟩ :=
  if_neg (Nat.not_le_of_lt h)

theorem zeroRun_of_le {r : Nat} (n : Nat) (h : 11 ≤ r) :
    zeroRun (n + 1) r = ⟨18, min r 138 - 11, 7⟩ :: zeroRun n (r - min r 138) := if_pos h

theorem zeroRun_of_lt {r : Nat} (n : Nat) (h : r < 11) : zeroRun (n + 1) r = zeroTail r :=
  if_neg (Nat.not_le_of_lt h)

theorem repeatRun_of_le {r : Nat} (n v : Nat) (h : 3 ≤ r) :
    repeatRun (n + 1) v r = ⟨16, min r 6 - 3, 2⟩ :: repeatRun n v (r - min r 6) := if_pos h

theorem repeatRun_of_lt {r : Nat} (n v : Nat) (h : r < 3) :
    repeatRun (n + 1) v r = List.replicate r ⟨v, 0, 0⟩ := if_neg (Nat.not_le_of_lt h)

theorem encodeRun_zero (run : Nat) : encodeRun 0 run = zeroRun run run := rfl

theorem encodeRun_of_pos {v : Nat} (h : 0 < v) (run : Nat) :
    encodeRun v run = ⟨v, 0, 0⟩ :: repeatRun run v (run - 1) := if_neg h.ne'

/-! ## R226 (a): what a coded run expands to -/

theorem expandCl_replicate_literal {v : Nat} (h : v ≤ 15) (r : Nat) (before : List Nat) :
    expandCl (List.replicate r ⟨v, 0, 0⟩) before = List.replicate r v := by
  induction r generalizing before with
  | zero => rfl
  | succ r ih => simp [List.replicate_succ, expandCl_cons, lengths_literal _ _ _ h, ih]

theorem expandCl_zeroTail (r : Nat) (before : List Nat) :
    expandCl (zeroTail r) before = List.replicate r 0 := by
  obtain h | h := le_or_gt 3 r
  · simp [zeroTail_of_le h, expandCl_cons, Nat.add_sub_cancel' h]
  · rw [zeroTail_of_lt h, expandCl_replicate_literal (Nat.zero_le 15)]

theorem expandCl_zeroRun (n r : Nat) (before : List Nat) :
    expandCl (zeroRun n r) before = List.replicate r 0 := by
  induction n generalizing r before with
  | zero => exact expandCl_zeroTail r before
  | succ n ih =>
    obtain h | h := le_or_gt 11 r
    · rw [zeroRun_of_le n h, expandCl_cons, lengths_manyZeros, ih,
        List.replicate_append_replicate]
      congr 1
      omega
    · rw [zeroRun_of_lt n h, expandCl_zeroTail]

/-- Repeats of `v` expand to it when `v` is the length before them. -/
theorem expandCl_repeatRun {v : Nat} (h : v ≤ 15) (n r : Nat) (before : List Nat) :
    expandCl (repeatRun n v r) (v :: before) = List.replicate r v := by
  induction n generalizing r before with
  | zero => exact expandCl_replicate_literal h r _
  | succ n ih =>
    obtain hr | hr := le_or_gt 3 r
    · have hlast : (List.replicate (3 + (min r 6 - 3)) v).reverse ++ v :: before =
          v :: (List.replicate (3 + (min r 6 - 3)) v ++ before) := by
        rw [List.reverse_replicate, List.append_cons, ← List.replicate_succ', List.replicate_succ,
          List.cons_append]
      rw [repeatRun_of_le n v hr, expandCl_cons, lengths_repeat, List.headD_cons, hlast, ih,
        List.replicate_append_replicate]
      congr 1
      omega
    · rw [repeatRun_of_lt n v hr, expandCl_replicate_literal h]

theorem expandCl_encodeRun {v run : Nat} (h : v ≤ 15) (hrun : 1 ≤ run) (before : List Nat) :
    expandCl (encodeRun v run) before = List.replicate run v := by
  obtain rfl | hpos := v.eq_zero_or_pos
  · rw [encodeRun_zero, expandCl_zeroRun]
  · rw [encodeRun_of_pos hpos, expandCl_cons, lengths_literal _ _ _ h, List.reverse_singleton,
      List.singleton_append, List.singleton_append, expandCl_repeatRun h, ← List.replicate_succ,
      Nat.sub_add_cancel hrun]

theorem expandCl_flatMap_encodeRun {runs : List (Nat × Nat)}
    (h : ∀ e ∈ runs, e.1 ≤ 15 ∧ 1 ≤ e.2) (before : List Nat) :
    expandCl (runs.flatMap fun e => encodeRun e.1 e.2) before =
      runs.flatMap fun e => List.replicate e.2 e.1 := by
  induction runs generalizing before with
  | nil => rfl
  | cons run more ih =>
    obtain ⟨⟨hle, hpos⟩, hmore⟩ := List.forall_mem_cons.1 h
    rw [List.flatMap_cons, List.flatMap_cons, expandCl_append, expandCl_encodeRun hle hpos,
      ih hmore]

/-- Expanding the stream gives the lengths back, whatever lengths stand before it
(R226 (a), R224). -/
theorem expandCl_encodeCl {lens : List Nat} (h : ∀ x ∈ lens, x ≤ 15) (before : List Nat) :
    expandCl (encodeCl lens) before = lens :=
  (expandCl_flatMap_encodeRun (fun _ he => ⟨h _ (fst_mem_of_mem_runsOf he),
    one_le_of_mem_runsOf he⟩) before).trans (runsOf_flatMap lens)

/-! ## R226 (b), (c): the symbols of a coded run -/

/-- A CL Symbol whose extra value is in the range of its value (R226 (c)). -/
def ExtraInRange (e : ClSym) : Prop :=
  (e.v ≤ 15 ∧ e.xv = 0 ∧ e.xb = 0) ∨ (e.v = 16 ∧ e.xv ≤ 3 ∧ e.xb = 2) ∨
    (e.v = 17 ∧ e.xv ≤ 7 ∧ e.xb = 3) ∨ (e.v = 18 ∧ e.xv ≤ 127 ∧ e.xb = 7)

/-- A CL Symbol that a 16 may follow: a nonzero literal or another 16 (R226 (b)). -/
def CanRepeat (y : ClSym) : Prop := (1 ≤ y.v ∧ y.v ≤ 15) ∨ y.v = 16

theorem extraInRange_literal {v : Nat} (h : v ≤ 15) : ExtraInRange ⟨v, 0, 0⟩ :=
  .inl ⟨h, rfl, rfl⟩

theorem mem_zeroTail {r : Nat} {e : ClSym} (hr : r ≤ 10) (h : e ∈ zeroTail r) :
    ExtraInRange e ∧ e.v ≠ 16 := by
  obtain hge | hlt := le_or_gt 3 r
  · obtain rfl := List.mem_singleton.1 (zeroTail_of_le hge ▸ h)
    exact ⟨.inr (.inr (.inl ⟨rfl, Nat.sub_le_sub_right hr 3, rfl⟩)), (by decide : 17 ≠ 16)⟩
  · obtain rfl := List.eq_of_mem_replicate (zeroTail_of_lt hlt ▸ h)
    exact ⟨extraInRange_literal (Nat.zero_le 15), (by decide : 0 ≠ 16)⟩

/-- A run of zeros has no 16; its bound lets the chunks bring it down to at most 10 zeros (R222). -/
theorem mem_zeroRun {n r : Nat} {e : ClSym} (hr : r ≤ n + 10) (h : e ∈ zeroRun n r) :
    ExtraInRange e ∧ e.v ≠ 16 := by
  induction n generalizing r with
  | zero => exact mem_zeroTail (Nat.zero_add 10 ▸ hr) h
  | succ n ih =>
    obtain hge | hlt := le_or_gt 11 r
    · obtain rfl | hrest := List.mem_cons.1 (zeroRun_of_le n hge ▸ h)
      · exact ⟨.inr (.inr (.inr ⟨rfl, Nat.sub_le_sub_right (Nat.min_le_right r 138) 11, rfl⟩)),
          (by decide : 18 ≠ 16)⟩
      · exact ih (by omega) hrest
    · exact mem_zeroTail (Nat.le_of_lt_succ hlt) (zeroRun_of_lt n hlt ▸ h)

theorem mem_replicate_literal {v r : Nat} {e : ClSym} (hpos : 1 ≤ v) (hle : v ≤ 15)
    (h : e ∈ List.replicate r (⟨v, 0, 0⟩ : ClSym)) : ExtraInRange e ∧ CanRepeat e := by
  obtain rfl := List.eq_of_mem_replicate h
  exact ⟨extraInRange_literal hle, .inl ⟨hpos, hle⟩⟩

/-- The repeats of a nonzero length are literals of it and 16s (R223). -/
theorem mem_repeatRun {n v r : Nat} {e : ClSym} (hpos : 1 ≤ v) (hle : v ≤ 15)
    (h : e ∈ repeatRun n v r) : ExtraInRange e ∧ CanRepeat e := by
  induction n generalizing r with
  | zero => exact mem_replicate_literal hpos hle h
  | succ n ih =>
    obtain hge | hlt := le_or_gt 3 r
    · obtain rfl | hrest := List.mem_cons.1 (repeatRun_of_le n v hge ▸ h)
      · exact ⟨.inr (.inl ⟨rfl, Nat.sub_le_sub_right (Nat.min_le_right r 6) 3, rfl⟩), .inr rfl⟩
      · exact ih hrest
    · exact mem_replicate_literal hpos hle (repeatRun_of_lt n v hlt ▸ h)

theorem extraInRange_of_mem_encodeRun {v run : Nat} {e : ClSym} (hle : v ≤ 15)
    (h : e ∈ encodeRun v run) : ExtraInRange e := by
  obtain rfl | hpos := v.eq_zero_or_pos
  · exact (mem_zeroRun (Nat.le_add_right run 10) h).1
  · obtain rfl | hrest := List.mem_cons.1 (encodeRun_of_pos hpos run ▸ h)
    · exact extraInRange_literal hle
    · exact (mem_repeatRun hpos hle hrest).1

/-! ## R226 (b): where a 16 stands -/

/-- A 16 never comes first, and follows only a symbol it can repeat (R226 (b)). -/
def RepeatsFollow (cls : List ClSym) : Prop :=
  ∀ before e after, cls = before ++ e :: after → e.v = 16 →
    ∃ init y, before = init ++ [y] ∧ CanRepeat y

theorem repeatsFollow_of_noRepeat {cls : List ClSym} (h : ∀ e ∈ cls, e.v ≠ 16) :
    RepeatsFollow cls := fun before e _ hcls he =>
  absurd he (h e (hcls ▸ List.mem_append_right before List.mem_cons_self))

/-- A literal, and symbols after it that a 16 can follow. -/
theorem repeatsFollow_cons {x : ClSym} {cls : List ClSym} (hx : x.v ≠ 16)
    (h : ∀ e ∈ x :: cls, CanRepeat e) : RepeatsFollow (x :: cls) := by
  intro before e after hcls he
  obtain rfl | ⟨init, y, rfl⟩ := List.eq_nil_or_concat' before
  · obtain ⟨rfl, -⟩ := List.cons.inj hcls
    exact absurd he hx
  · exact ⟨init, y, rfl, h y (hcls ▸ by simp)⟩

/-- No 16 stands first in the second stream, so none looks back across the seam (R224). -/
theorem RepeatsFollow.append {cls₁ cls₂ : List ClSym} (h₁ : RepeatsFollow cls₁)
    (h₂ : RepeatsFollow cls₂) : RepeatsFollow (cls₁ ++ cls₂) := by
  intro before e after hcls he
  obtain ⟨mid, rfl, hsecond⟩ | ⟨mid, hfirst, hrest⟩ := List.append_eq_append_iff.1 hcls
  · obtain ⟨init, y, rfl, hy⟩ := h₂ mid e after hsecond he
    exact ⟨cls₁ ++ init, y, (List.append_assoc ..).symm, hy⟩
  · cases mid with
    | nil =>
      obtain ⟨init, y, hnil, -⟩ := h₂ [] e after hrest.symm he
      exact absurd hnil (by simp)
    | cons m mid =>
      obtain ⟨rfl, -⟩ := List.cons.inj hrest
      exact h₁ before e mid hfirst he

theorem repeatsFollow_encodeRun {v : Nat} (hle : v ≤ 15) (run : Nat) :
    RepeatsFollow (encodeRun v run) := by
  obtain rfl | hpos := v.eq_zero_or_pos
  · exact repeatsFollow_of_noRepeat fun e he => (mem_zeroRun (Nat.le_add_right run 10) he).2
  · rw [encodeRun_of_pos hpos]
    exact repeatsFollow_cons (Nat.ne_of_lt (Nat.lt_succ_of_le hle)) (List.forall_mem_cons.2
      ⟨.inl ⟨hpos, hle⟩, fun e he => (mem_repeatRun hpos hle he).2⟩)

theorem repeatsFollow_flatMap_encodeRun {runs : List (Nat × Nat)} (h : ∀ e ∈ runs, e.1 ≤ 15) :
    RepeatsFollow (runs.flatMap fun e => encodeRun e.1 e.2) := by
  induction runs with
  | nil => exact repeatsFollow_of_noRepeat fun e he => nomatch he
  | cons run more ih =>
    obtain ⟨hle, hmore⟩ := List.forall_mem_cons.1 h
    rw [List.flatMap_cons]
    exact (repeatsFollow_encodeRun hle run.2).append (ih hmore)

/-! ## R226 -/

theorem repeatsFollow_encodeCl {lens : List Nat} (h : ∀ x ∈ lens, x ≤ 15) :
    RepeatsFollow (encodeCl lens) :=
  repeatsFollow_flatMap_encodeRun fun _ he => h _ (fst_mem_of_mem_runsOf he)

theorem extraInRange_of_mem_encodeCl {lens : List Nat} {e : ClSym} (h : ∀ x ∈ lens, x ≤ 15)
    (he : e ∈ encodeCl lens) : ExtraInRange e := by
  obtain ⟨run, hrun, hmem⟩ := List.mem_flatMap.1 he
  exact extraInRange_of_mem_encodeRun (h _ (fst_mem_of_mem_runsOf hrun)) hmem

/-- A stream is no longer than the lengths it codes, since each symbol stands for one or more
(R226 (d)). -/
theorem length_encodeCl_le {lens : List Nat} (h : ∀ x ∈ lens, x ≤ 15) :
    (encodeCl lens).length ≤ lens.length :=
  (length_le_expandCl (encodeCl lens) []).trans_eq (congrArg List.length (expandCl_encodeCl h []))

/-- Settles O51: R226 (a) to (d), each run by run. -/
theorem clRoundTrip : Obligations.ClRoundTrip := fun _ h =>
  ⟨expandCl_encodeCl h [], repeatsFollow_encodeCl h, fun _ he => extraInRange_of_mem_encodeCl h he,
    length_encodeCl_le h⟩

end Sys2Proof.Machine
end

section
/-! SUPPORT. The bit queue read bit by bit (R270 to R275): the bits of PutBits and PutCode, the byte that
DRAIN_BYTE moves, and the phase it leaves. With it the proofs of O30, O31 and O33. -/

namespace Sys2Proof.Machine

/-! ## Appending bits -/

theorem fieldBits_getD {v n i : Nat} (h : i < n) : (fieldBits v n).getD i false = v.testBit i := by
  rw [List.getD_eq_getElem _ _ ((length_fieldBits v n).symm ▸ h), fieldBits_getElem]

/-- The reversal of PutCode: its bit `i` is bit `n - 1 - i` of the code (R271). -/
theorem codeBits_getD {c n i : Nat} (h : i < n) :
    (codeBits c n).getD i false = c.testBit (n - 1 - i) := by
  rw [List.getD_eq_getElem _ _ ((length_codeBits c n).symm ▸ h)]
  simp only [codeBits, List.getElem_reverse, length_fieldBits, fieldBits_getElem]

/-- Nothing is added to whole bytes (R274). -/
theorem padLength_of_aligned {n : Nat} (h : n % 8 = 0) : padLength n = 0 := by
  rw [padLength, h]

/-- Settles O30: the bits appended are those of the field, and of the field reversed. -/
theorem putBitsPutCode : Obligations.PutBitsPutCode := fun _ v n =>
  ⟨⟨fieldBits v n, rfl, length_fieldBits v n, fun _ hi => fieldBits_getD hi⟩,
    ⟨codeBits v n, rfl, length_codeBits v n, fun _ hi => codeBits_getD hi⟩⟩

/-- Settles O31: the number of zeros is `padLength` of the queue's length. -/
theorem padToByte : Obligations.PadToByte := by
  intro s
  refine ⟨padLength s.bitq.length, padLength_lt _, rfl, ?_, padLength_of_aligned⟩
  rw [State.padToByte_bitq, List.length_append, List.length_replicate]
  exact add_padLength_mod _

/-! ## Moving a byte -/

/-- The byte moved holds the queue's first 8 bits, the first in bit 0 (R272). -/
theorem headByte_getLsbD {l : List Bool} {i : Nat} (h : i < 8) :
    (headByte l).getLsbD i = l.getD i false := by
  rw [headByte, BitVec.getLsbD_ofNat, testBit_bitsValue, decide_eq_true h, Bool.true_and,
    List.getD_eq_getElem?_getD, List.getElem?_take_of_lt h, ← List.getD_eq_getElem?_getD]

/-- A draining phase with a byte queued and room in the FIFO enables DRAIN_BYTE (R275, R280): the
converse of `State.guard_of_drain`. -/
theorem State.enabledStep_of_drain {s : State} (hp : s.phase = .drain ∨ s.phase = .drainFinal)
    (hlen : 8 ≤ s.bitq.length) (hroom : s.oq.length < Config.oqDepth) :
    s.enabledStep = some .drainByte := by
  have hguard : 8 ≤ s.bitq.length ∧ oqFull s.oq.length = false :=
    ⟨hlen, (oqFull_false_iff _).2 hroom⟩
  unfold State.enabledStep
  obtain hp | hp := hp <;> rw [hp] <;> exact if_pos hguard

/-- The `last` flag of the byte that DRAIN_BYTE moves (R275). -/
def State.drainLast (s : State) : Bool := decide (s.phase = .drainFinal) && (s.bitq.drop 8).isEmpty

theorem State.drainLast_iff {s : State} (hlen : 8 ≤ s.bitq.length) :
    s.drainLast = true ↔ s.phase = .drainFinal ∧ s.bitq.length = 8 := by
  rw [State.drainLast, Bool.and_eq_true, decide_eq_true_eq, List.isEmpty_iff, List.drop_eq_nil_iff,
    ← hlen.ge_iff_eq']

/-- What DRAIN_BYTE changes: the queue, the FIFO and the phase. -/
theorem State.drainStep_frame (s : State) :
    s.drainStep = { s with
      bitq := s.bitq.drop 8
      oq := s.oq ++ [⟨headByte s.bitq, s.drainLast⟩]
      phase := s.drainStep.phase } := rfl

/-- While another byte is queued the phase stays (R275). -/
theorem State.drainStep_phase_of_more {s : State} (h : 16 ≤ s.bitq.length) :
    s.drainStep.phase = s.phase := by
  rw [State.drainStep_phase, List.length_drop, if_neg (by omega)]

/-- With the last whole byte the phase ends: DONE after the final block, else ENCODE (R275). -/
theorem State.drainStep_phase_of_end {s : State} (h : s.bitq.length < 16) :
    s.drainStep.phase = if s.phase = .drainFinal then .done else .encode := by
  rw [State.drainStep_phase, List.length_drop, if_pos (by omega)]

/-- Settles O33: the turn is DRAIN_BYTE, whose byte, flag and phase are said above. -/
theorem drainByte : Obligations.DrainByte := by
  intro s hp hlen hroom
  refine ⟨headByte s.bitq, s.drainLast, s.drainStep.phase, ?turn, fun _ hi => headByte_getLsbD hi,
    State.drainLast_iff hlen, State.drainStep_phase_of_more, fun hend hdrain => ?encode,
    fun hend hfinal => ?done⟩
  case turn =>
    rw [State.coreTurn_drain (State.enabledStep_of_drain hp hlen hroom), ← State.drainStep_frame]
  case encode => rw [State.drainStep_phase_of_end hend, hdrain]; rfl
  case done => rw [State.drainStep_phase_of_end hend, if_pos hfinal]

end Sys2Proof.Machine
end

section
/-! SUPPORT. The blocks FLUSH and FINISH write (R284, R286): the tables of a dynamic block can always be
built (R243), so neither step faults, and what each appends to the queue. With it the proofs of O42 and
O43. -/

namespace Sys2Proof.Machine

/-! ## The tables of a dynamic block -/

theorem usedCount_pos {f : List Nat} {s : Nat} (h : 0 < f.getD s 0) : 0 < usedCount f := by
  rw [← usedIndices_length]
  exact List.length_pos_of_mem (mem_usedIndices.2 h)

/-- Forcing EOB makes it a used symbol (R244). -/
theorem usedCount_forceEob {f : List Nat} (h : 256 < f.length) : 0 < usedCount (forceEob f) := by
  refine usedCount_pos (s := 256) ?_
  rw [forceEob, List.getD_eq_getElem _ _ (by rwa [List.length_set]), List.getElem_set_self]
  exact Nat.le_max_right _ _

/-- A distance table has a used symbol: one that was counted, or the forced symbol 0 (R245). -/
theorem usedCount_forceDistance {f : List Nat} (h : 0 < f.length) :
    0 < usedCount (forceDistance f) := by
  unfold forceDistance
  split_ifs with hzero
  · refine usedCount_pos (s := 0) ?_
    rw [List.getD_eq_getElem _ _ (by rwa [List.length_set]), List.getElem_set_self]
    exact Nat.one_pos
  · obtain ⟨x, hx, hne⟩ : ∃ x ∈ f, x ≠ 0 := by simpa using hzero
    exact List.countP_pos_iff.2 ⟨x, hx, by simpa using Nat.pos_of_ne_zero hne⟩

theorem encodeCl_ne_nil {lens : List Nat} (h : ∀ x ∈ lens, x ≤ 15) (hne : lens ≠ []) :
    encodeCl lens ≠ [] := fun hnil => hne <| by
  rw [← expandCl_encodeCl h [], hnil, expandCl_nil]

theorem length_clFrequencies (cls : List ClSym) : (clFrequencies cls).length = 19 := by
  simp [clFrequencies]

/-- A CL symbol in range is counted (R225). -/
theorem clFrequencies_pos {cls : List ClSym} {e : ClSym} (he : e ∈ cls) (hv : e.v < 19) :
    0 < (clFrequencies cls).getD e.v 0 := by
  rw [List.getD_eq_getElem _ _ (by rwa [length_clFrequencies])]
  simpa [clFrequencies] using ⟨e, he, rfl⟩

/-- The frequencies of two CL streams together have a used symbol when the first stream has one. -/
theorem usedCount_clFrequencies {lens : List Nat} (h : ∀ x ∈ lens, x ≤ 15) (hne : lens ≠ [])
    (cls : List ClSym) :
    0 < usedCount (List.zipWith (· + ·) (clFrequencies (encodeCl lens)) (clFrequencies cls)) := by
  obtain ⟨e, he⟩ := List.exists_mem_of_ne_nil _ (encodeCl_ne_nil h hne)
  have hv : e.v < 19 := by
    rcases extraInRange_of_mem_encodeCl h he with h | h | h | h <;> omega
  have hpos := clFrequencies_pos he hv
  refine usedCount_pos (s := e.v) ?_
  rw [List.getD_eq_getElem _ _ (by rwa [length_clFrequencies])] at hpos
  rw [List.getD_eq_getElem _ _ (by simpa [length_clFrequencies] using hv), List.getElem_zipWith]
  exact Nat.add_pos_left hpos _

theorem tablesOfLengths_ok {lenLL : List Nat} (h : ∀ x ∈ lenLL, x ≤ 15) (lenD : List Nat) :
    ∃ w, tablesOfLengths lenLL lenD = .ok w := by
  have hle : ∀ x ∈ (lenLL ++ [0, 0]).take (max (usedLength lenLL) 257), x ≤ 15 := fun x hx => by
    have hmem := List.mem_of_mem_take hx
    simp only [List.mem_append, List.mem_cons, List.not_mem_nil, or_false, or_self] at hmem
    exact hmem.elim (h x) fun h0 => h0 ▸ Nat.zero_le 15
  have hne : (lenLL ++ [0, 0]).take (max (usedLength lenLL) 257) ≠ [] := by simp
  obtain ⟨lenCL, hCL, -⟩ := Huffman.limitedLengths _ 7 (by decide)
    (by simp [length_clFrequencies])
    (usedCount_clFrequencies hle hne (encodeCl (lenD.take (max (usedLength lenD) 1))))
  unfold tablesOfLengths
  simp only [Config.maxClCodeLen, hCL]
  exact ⟨_, rfl⟩

theorem length_tableNats {w n : Nat} (t : Vector (BitVec w) n) : (tableNats t).length = n := by
  simp [tableNats]

/-- BUILD_DYNAMIC_TABLES raises none of its faults (R243): each of its three alphabets has a used
symbol, and no more symbols than its limit has codes. -/
theorem buildDynamicTables_ok (freqLL : Vector Word 286) (freqD : Vector Word 30) :
    ∃ w, buildDynamicTables freqLL freqD = .ok w := by
  have hLLlength : (forceEob (tableNats freqLL)).length = 286 := by
    rw [forceEob, List.length_set, length_tableNats]
  have hDlength : (forceDistance (tableNats freqD)).length = 30 := by
    unfold forceDistance
    split_ifs <;> simp [length_tableNats]
  obtain ⟨lenLL, hLL, -, hle, -⟩ := Huffman.limitedLengths (forceEob (tableNats freqLL)) 15
    (by decide) (by rw [hLLlength]; decide) (usedCount_forceEob (by simp [length_tableNats]))
  obtain ⟨lenD, hD, -⟩ := Huffman.limitedLengths (forceDistance (tableNats freqD)) 15
    (by decide) (by rw [hDlength]; decide) (usedCount_forceDistance (by simp [length_tableNats]))
  unfold buildDynamicTables
  simp only [Config.maxCodeLen, hLL, hD]
  exact tablesOfLengths_ok hle lenD

/-! ## FLUSH -/

/-- The bits of a dynamic block (R251). -/
def dynamicBits (bfinal : BitVec 1) (w : Work) (sym : List Sym) : List Bool :=
  headerBits bfinal.toNat 2 ++ tableBits w ++ payloadBits w.tables sym

/-- Where the tables are built, WRITE_DYNAMIC_BLOCK appends the block's bits (R251). -/
theorem State.writeDynamicWith_bits (s : State) (f : BitVec 1) (w : Work) :
    (s.writeDynamicWith f w).bitq = s.bitq ++ dynamicBits f w s.sym := by
  rw [State.writeDynamicWith_bitq, dynamicBits, List.append_assoc]

/-- The phase `FLUSH` enables FLUSH (R280). -/
theorem State.enabledStep_of_flush {s : State} (hp : s.phase = .flush) :
    s.enabledStep = some .flush := by
  unfold State.enabledStep
  rw [hp]

/-- All that FLUSH does (R284): it appends the block's bits, clears and counts the block (R256), and
drains. The working state, the block kind and the counter of free values are the model's own. -/
theorem State.flushStep_eq {s : State} {w : Work}
    (hw : buildDynamicTables s.freqLL s.freqD = .ok w) :
    s.flushStep = { s.afterBlock with
      bitq := s.bitq ++ dynamicBits 0 w s.sym
      phase := .drain
      work := s.flushStep.work
      kind := s.flushStep.kind
      freeCtr := s.flushStep.freeCtr } := by
  obtain ⟨c, hc, -⟩ | ⟨w', hw', hstep⟩ := State.flushStep_cases s
  · simp [hw] at hc
  · obtain rfl : w = w' := Except.ok.inj (hw.symm.trans hw')
    rw [hstep, ← State.writeDynamicWith_bits s 0 w]
    rfl

/-- Settles O42: the tables can be built, and FLUSH appends the block they give. -/
theorem flushWritesBlock : Obligations.FlushWritesBlock := by
  intro s hp
  obtain ⟨w, hw⟩ := buildDynamicTables_ok s.freqLL s.freqD
  refine ⟨w, _, hw, (State.coreTurn_flush (State.enabledStep_of_flush hp)).trans
    (congrArg _ (State.flushStep_eq hw)), ?_⟩
  exact ⟨rfl, rfl, rfl, rfl, entry_replicate, entry_replicate, rfl, rfl, rfl, rfl, rfl, rfl, rfl, rfl,
    rfl, rfl, rfl, rfl⟩

/-! ## FINISH -/

/-- The bits of the final block: fixed below 200 Symbols, else dynamic (R254, R286). The error never
occurs (`buildDynamicTables_ok`). -/
def State.finalBits (s : State) : List Bool :=
  if s.symcount.toNat < 200 then headerBits 1 1 ++ payloadBits fixedTables s.sym
  else
    match buildDynamicTables s.freqLL s.freqD with
    | .ok w => dynamicBits 1 w s.sym
    | .error _ => []

theorem State.finalBits_fixed {s : State} (h : s.symcount.toNat < 200) :
    s.finalBits = headerBits 1 1 ++ payloadBits fixedTables s.sym := if_pos h

theorem State.finalBits_dynamic {s : State} {w : Work} (h : 200 ≤ s.symcount.toNat)
    (hw : buildDynamicTables s.freqLL s.freqD = .ok w) : s.finalBits = dynamicBits 1 w s.sym := by
  rw [State.finalBits, if_neg (Nat.not_lt.2 h), hw]

/-- A queue padded to a byte boundary (R274). -/
def padded (l : List Bool) : List Bool := l ++ List.replicate (padLength l.length) false

theorem padded_length_mod (l : List Bool) : (padded l).length % 8 = 0 := by
  rw [padded, List.length_append, List.length_replicate]
  exact add_padLength_mod _

/-- In `ENCODE` the end of the input, all of it encoded, enables FINISH (R280): the converse of
`State.guard_of_finish`. -/
theorem State.enabledStep_of_finish {s : State} (hp : s.phase = .encode) (he : s.eoi = true)
    (hpr : s.p = s.r) : s.enabledStep = some .finish := by
  unfold State.enabledStep
  rw [hp]
  simp [he, hpr]

/-- All that FINISH does (R286): it appends the final block's bits and pads the queue, clears and counts
the block (R256), and drains. -/
theorem State.finishStep_eq (s : State) :
    s.finishStep = { s.afterBlock with
      bitq := padded (s.bitq ++ s.finalBits)
      phase := .drainFinal
      work := s.finishStep.work
      kind := s.finishStep.kind
      freeCtr := s.finishStep.freeCtr } := by
  obtain ⟨w, hw⟩ := buildDynamicTables_ok s.freqLL s.freqD
  obtain ⟨hlt, hstep⟩ | ⟨hge, ⟨c, hc, -⟩ | ⟨w', hw', hstep⟩⟩ := State.finishStep_cases s
  · rw [hstep, State.finalBits_fixed hlt, ← List.append_assoc]
    rfl
  · simp [hw] at hc
  · rw [hstep, State.finalBits_dynamic hge hw', ← State.writeDynamicWith_bits s 1 w']
    rfl

/-- Settles O43: FINISH appends the final block of R254 and the padding of R274. -/
theorem finishWritesFinal : Obligations.FinishWritesFinal := by
  intro s hp he hpr
  refine ⟨s.finalBits, padLength (s.bitq ++ s.finalBits).length, _,
    (State.coreTurn_finish (State.enabledStep_of_finish hp he hpr)).trans
      (congrArg _ s.finishStep_eq),
    State.finalBits_fixed, fun hge => ?dynamic, rfl, padLength_lt _, padded_length_mod _, ?_⟩
  case dynamic =>
    obtain ⟨w, hw⟩ := buildDynamicTables_ok s.freqLL s.freqD
    exact ⟨w, hw, State.finalBits_dynamic hge hw⟩
  exact ⟨rfl, rfl, rfl, entry_replicate, entry_replicate, rfl, rfl, rfl, rfl, rfl, rfl, rfl, rfl, rfl,
    rfl, rfl, rfl⟩

end Sys2Proof.Machine
end

section
/-! SUPPORT. The core agent between its blocks: when it stalls (R292), and all that an ENCODE_STEP does
(R282, R283). With it the proofs of O35 and O36. -/

namespace Sys2Proof.Machine

/-! ## Stalls -/

/-- In `ENCODE` bytes to encode, with the lookahead or at the end of input, enable ENCODE_STEP (R280,
R281): the converse of `State.guard_of_encode`. -/
theorem State.enabledStep_of_encode {s : State} (hp : s.phase = .encode) (hlt : s.p < s.r)
    (hlook : s.eoi = true ∨ 260 ≤ s.avail) : s.enabledStep = some .encodeStep := by
  unfold State.enabledStep
  rw [hp]
  exact if_pos ⟨hlt, hlook⟩

/-- In `ENCODE` only the input can be missing (R292). -/
theorem State.stalled_encode_iff {s : State} (hp : s.phase = .encode) (hpr : s.p ≤ s.r) :
    s.enabledStep = none ↔ s.eoi = false ∧ s.avail < 260 := by
  constructor
  · intro hnone
    by_contra hnot
    obtain heq | hlt := hpr.eq_or_lt
    · have he : s.eoi = true := by
        by_contra he
        exact hnot ⟨by simpa using he, by unfold State.avail; omega⟩
      simp [State.enabledStep_of_finish hp he heq] at hnone
    · have hlook : s.eoi = true ∨ 260 ≤ s.avail := by
        by_contra hlook
        exact hnot (by simpa using hlook)
      simp [State.enabledStep_of_encode hp hlt hlook] at hnone
  · rintro ⟨he, hav⟩
    obtain ⟨-, -, -, hlook⟩ | ⟨-, -, hend, -⟩ | ⟨-, hflush⟩ | ⟨-, hdrain, -⟩ | hnone :=
      s.enabledStep_cases
    · simp [he, Nat.not_le.2 hav] at hlook
    · simp [he] at hend
    · simp [hp] at hflush
    · simp [hp] at hdrain
    · exact hnone

/-- While the queue drains only room in the FIFO can be missing (R292). -/
theorem State.stalled_drain_iff {s : State} (hp : s.phase = .drain ∨ s.phase = .drainFinal)
    (h8 : 8 ≤ s.bitq.length) : s.enabledStep = none ↔ Config.oqDepth ≤ s.oq.length := by
  constructor
  · intro hnone
    by_contra hroom
    simp [State.enabledStep_of_drain hp h8 (Nat.not_le.1 hroom)] at hnone
  · intro hfull
    obtain ⟨-, hencode, -⟩ | ⟨-, hencode, -⟩ | ⟨-, hflush⟩ | ⟨-, -, -, hroom⟩ | hnone :=
      s.enabledStep_cases
    · simp [hencode] at hp
    · simp [hencode] at hp
    · simp [hflush] at hp
    · exact absurd hfull (Nat.not_le.2 hroom)
    · exact hnone

/-- Settles O35, phase by phase. -/
theorem stalls : Obligations.Stalls := by
  intro s hc hi hdone hfault
  refine ⟨?_, State.coreTurn_stalled⟩
  cases hp : s.phase with
  | encode => simpa [State.avail] using State.stalled_encode_iff hp hc.cursor
  | flush => simp [State.enabledStep_of_flush hp]
  | drain => simpa using State.stalled_drain_iff (.inl hp) (hi.draining hp)
  | drainFinal => simpa using State.stalled_drain_iff (.inr hp) (hi.draining_final hp).1
  | done => exact absurd hp hdone
  | fault => exact absurd hp hfault

/-! ## ENCODE_STEP -/

/-- What an ENCODE_STEP records of a candidate, and how many bytes it consumes (R282). -/
inductive State.Recorded (s : State) (c : Candidate) : State → Nat → Prop where
  | pair (l d : SymCode) (h3 : 3 ≤ c.length) (hl : lenCode c.length = some l)
      (hd : distCode c.distance = some d) : s.Recorded c (s.recordPair l d) c.length
  | literal (b : Byte) (h3 : c.length < 3) (hb : s.winRead s.p = some b) :
      s.Recorded c (s.recordLit b) 1

/-- All that an ENCODE_STEP does where the block has room: it finds a candidate, records it, consumes its
bytes, and marks a full block (R282, R283). -/
theorem State.encodeStep_next_iff {s t : State} (hroom : s.symbufFull = false) :
    s.encodeStep = .next t ↔
      ∃ c s' n u, s.findBestMatch s.p s.avail = some c ∧ s.Recorded c s' n ∧
        State.consumeN n s' = some u ∧ t = u.flushTrigger := by
  constructor
  · intro h
    obtain ⟨c, hc, ⟨hfull, -⟩ | ⟨-, h3, l, d, u, hl, hd, hu, ht⟩ | ⟨-, h3, b, u, hb, hu, ht⟩⟩ :=
      State.encodeStep_cases h
    · simp [hroom] at hfull
    · exact ⟨c, _, _, u, hc, .pair l d h3 hl hd, hu, ht⟩
    · exact ⟨c, _, _, u, hc, .literal b h3 hb, hu, ht⟩
  · rintro ⟨c, s', n, u, hc, hrec, hu, rfl⟩
    unfold State.encodeStep
    rw [hc]
    cases hrec with
    | pair l d h3 hl hd =>
      simp only [Config.minMatch, h3, if_true, State.encodeMatch, hl, hd, hroom]
      exact State.advance_next hu
    | literal b h3 hb =>
      simp only [Config.minMatch, Nat.not_le.2 h3, if_false, State.encodeLiteral, hb, hroom]
      exact State.advance_next hu

/-- Recording writes the open block and its counts alone. -/
theorem State.Recorded.frame {s s' : State} {c : Candidate} {n : Nat} (h : s.Recorded c s' n) :
    s' = { s with
      sym := s'.sym
      symcount := s'.symcount
      freqLL := s'.freqLL
      freqD := s'.freqD } := by
  cases h <;> rfl

/-- What follows the recording: the cursor moves on, and a block that is now full waits for FLUSH. -/
theorem State.flushTrigger_consumeN {n : Nat} {s u : State} (h : State.consumeN n s = some u) :
    u.flushTrigger = { s with
      p := s.p + n
      pindex := u.pindex
      store := u.store
      phase := if 800000 < s.symcount.toNat then .flush else s.phase } := by
  obtain ⟨hp, -, -⟩ := State.consumeN_p h
  rw [State.flushTrigger_eq, State.consumeN_frame h, hp]

/-- The window's tail does not move back. -/
theorem windowStart_le_succ (p : Nat) : windowStart p ≤ windowStart (p + 1) := by
  rw [windowStart_eq, windowStart_eq]
  exact Nat.sub_le_sub_right (Nat.le_succ p) 32768

/-- A position still in the window reads as before. -/
theorem State.consumeN_read {n : Nat} {s u : State} (h : State.consumeN n s = some u) {q : Nat}
    (hq : u.wstart ≤ q) : u.store.read q = s.store.read q := by
  refine State.consumeN_induct (P := fun v => ∀ q, v.wstart ≤ q → v.store.read q = s.store.read q)
    (fun v w hv hvw q hq => ?_) (fun _ _ => rfl) h q hq
  obtain ⟨-, x, y, -, -, rfl⟩ := State.consume_cases hvw
  have hkept : windowStart (v.p + 1) ≤ q := hq
  have hold : v.wstart ≤ q := (windowStart_le_succ v.p).trans hkept
  rw [Memory.read_dropBelow, if_pos hkept, hv q hold]

/-- The core's turn keeps the input store and the index exact: the turn as a step of its own. -/
theorem State.coreTurn_window {s t : State} (h : s.coreTurn = .next t) (hi : Invariant s) :
    StoreInv t ∧ IndexInv t := by
  have hstep : step { s with turns := .core :: s.turns } = .next t := (step_core rfl).trans h
  have hwindow := step_window hstep
  exact ⟨hwindow.storeInv ⟨hi.cursor.cursor, hi.cursor.lookahead⟩ hi.store,
    hwindow.indexInv ⟨hi.index.canonical, hi.index.exact, hi.index.received⟩⟩

/-- The block that is being filled has room for two more Symbols (R348). -/
theorem SymInv.symbufFull {s : State} (h : SymInv s) (hp : s.phase = .encode) :
    s.symbufFull = false := (s.symbufFull_false_iff).2 (h.open_bound hp)

/-- Settles O36: what the step records is a pair or a literal, and what it consumes moves the window. -/
theorem encodeStepResult : Obligations.EncodeStepResult := by
  intro s hi hp hlt hlook
  obtain ⟨t, ht⟩ := hi.index.indexExact.encodeStep_next hi.store hlt
  have hturn : s.coreTurn = .next t :=
    (State.coreTurn_encode (State.enabledStep_of_encode hp hlt hlook)).trans ht
  obtain ⟨hstore, hindex⟩ := State.coreTurn_window hturn hi
  obtain ⟨c, s', n, u, hc, hrec, hu, rfl⟩ :=
    (State.encodeStep_next_iff (hi.sym.symbufFull hp)).1 ht
  have hread : ∀ q, u.flushTrigger.wstart ≤ q → u.flushTrigger.store.read q = s.store.read q := by
    have hsame : s'.store = s.store := by rw [hrec.frame]
    obtain ⟨hpu, -, hmu, -⟩ := SameWindow.flushTrigger u
    intro q hq
    rw [State.wstart, hpu] at hq
    rw [hmu, State.consumeN_read hu hq, hsame]
  refine ⟨c, _, hc, hturn, ?literal, ?pair, ?phase, hread, hstore, hindex, ?frame⟩
  all_goals rw [State.flushTrigger_consumeN hu]
  case phase => rw [hrec.frame, hp]
  case frame =>
    rw [hrec.frame]
    exact ⟨rfl, rfl, rfl, rfl, rfl, rfl, rfl, rfl, rfl, rfl, rfl, rfl, rfl⟩
  case literal =>
    intro hshort
    cases hrec with
    | pair l d h3 _ _ => exact absurd h3 (Nat.not_le.2 hshort)
    | literal b _ hb =>
      exact ⟨b, hb, rfl, rfl, rfl, rfl, fun i _ =>
        entry_bump _ (Nat.lt_trans b.isLt (by decide)) i⟩
  case pair =>
    intro hlong
    cases hrec with
    | literal b h3 _ => exact absurd hlong (Nat.not_le.2 h3)
    | pair l d _ hl hd =>
      exact ⟨l, d, hl, hd, List.append_assoc .., BitVec.add_assoc .., rfl,
        fun i _ => entry_bump _ (sym_lt_of_lenOk (lenOk_of_lenCode hl)) i,
        fun i _ => entry_bump _ (sym_lt_of_distOk (distOk_of_distCode hd)) i⟩

end Sys2Proof.Machine
end

section
/-! SUPPORT. The bytes of a bit queue (R272): what DRAIN_BYTE has moved out of the queue's front, byte by
byte, against the bytes of the queue as a whole, and where `last` stands among them (R276). -/

namespace Sys2Proof.Machine

/-! ## The bytes of a queue -/

@[simp] theorem packBytes_nil (n : Nat) : packBytes n [] = [] := by cases n <;> rfl

theorem packBytes_succ {l : List Bool} (n : Nat) (h : l ≠ []) :
    packBytes (n + 1) l = headByte l :: packBytes n (l.drop 8) := if_neg h

/-- One byte more is the byte behind those packed. -/
theorem packBytes_concat {n : Nat} {l : List Bool} (h : 8 * n < l.length) :
    packBytes (n + 1) l = packBytes n l ++ [headByte (l.drop (8 * n))] := by
  have hne : l ≠ [] := List.ne_nil_of_length_pos (Nat.zero_lt_of_lt h)
  rw [packBytes_succ n hne]
  induction n generalizing l with
  | zero => rfl
  | succ n ih =>
    have hrest : 8 * n < (l.drop 8).length := by rw [List.length_drop]; omega
    have hrest' : l.drop 8 ≠ [] := List.ne_nil_of_length_pos (Nat.zero_lt_of_lt hrest)
    rw [packBytes_succ n hne, packBytes_succ n hrest', ih hrest hrest', List.drop_drop,
      List.cons_append, Nat.mul_succ, Nat.add_comm (8 * n)]

/-- Whole bytes at the front do not depend on what follows them. -/
theorem packBytes_append {n : Nat} {l : List Bool} (h : 8 * n ≤ l.length) (m : List Bool) :
    packBytes n (l ++ m) = packBytes n l := by
  induction n generalizing l with
  | zero => rfl
  | succ n ih =>
    have h8 : 8 ≤ l.length := by omega
    have hne : l ≠ [] := List.ne_nil_of_length_pos (by omega)
    have hhead : headByte (l ++ m) = headByte l := by
      rw [headByte, headByte, List.take_append_of_le_length h8]
    rw [packBytes_succ n hne, packBytes_succ n (by simp [hne]), hhead,
      List.drop_append_of_le_length h8, ih (by rw [List.length_drop]; omega)]

/-- A bound beyond the queue's bytes makes no difference. -/
theorem packBytes_of_le {n m : Nat} {l : List Bool} (h : l.length ≤ 8 * n) (hnm : n ≤ m) :
    packBytes m l = packBytes n l := by
  induction n generalizing m l with
  | zero => rw [List.eq_nil_of_length_eq_zero (Nat.le_zero.1 h), packBytes_nil, packBytes_nil]
  | succ n ih =>
    obtain ⟨m, rfl⟩ := Nat.exists_eq_add_of_le' (Nat.zero_lt_of_lt hnm)
    obtain rfl | hne := eq_or_ne l []
    · rw [packBytes_nil, packBytes_nil]
    · rw [packBytes_succ m hne, packBytes_succ n hne,
        ih (by rw [List.length_drop]; omega) (Nat.le_of_succ_le_succ hnm)]

/-! ## Entries -/

/-- Bytes as output entries, none of them the last. -/
def unmarked (bytes : List Byte) : List OutEntry := bytes.map fun b => ⟨b, false⟩

theorem last_of_mem_unmarked {bytes : List Byte} {e : OutEntry} (h : e ∈ unmarked bytes) :
    e.last = false := by
  obtain ⟨b, -, rfl⟩ := List.mem_map.1 h
  rfl

theorem unmarked_concat (bytes : List Byte) (b : Byte) :
    unmarked (bytes ++ [b]) = unmarked bytes ++ [⟨b, false⟩] := List.map_append

theorem lastMarked_concat (bytes : List Byte) (b : Byte) :
    lastMarked (bytes ++ [b]) = unmarked bytes ++ [⟨b, true⟩] := by
  induction bytes with
  | nil => rfl
  | cons x bytes ih =>
    obtain ⟨y, rest, hcons⟩ := List.exists_cons_of_ne_nil (l := bytes ++ [b]) (by simp)
    rw [List.cons_append, hcons, lastMarked, ← hcons, ih]
    rfl

/-- Nothing follows the entry with `last = 1` (R276). -/
theorem lastMarked_eq_append {bytes : List Byte} {l m : List OutEntry} {e : OutEntry}
    (h : l ++ m = lastMarked bytes) (he : e ∈ l) (hlast : e.last = true) : m = [] := by
  obtain rfl | ⟨init, b, rfl⟩ := List.eq_nil_or_concat' bytes
  · exact (List.append_eq_nil_iff.1 h).2
  · obtain rfl | ⟨m, x, rfl⟩ := List.eq_nil_or_concat' m
    · rfl
    · rw [lastMarked_concat, ← List.append_assoc] at h
      have hinit : l ++ m = unmarked init := (List.append_inj' h rfl).1
      have hunmarked := last_of_mem_unmarked (hinit ▸ List.mem_append_left m he)
      simp [hlast] at hunmarked

/-! ## What has been moved -/

/-- Of the bits `bits`, whole bytes have been moved out as the entries `out`, none of them the last, and
`queue` is left (R275). -/
def Moved (bits : List Bool) (out : List OutEntry) (queue : List Bool) : Prop :=
  ∃ k, 8 * k ≤ bits.length ∧ queue = bits.drop (8 * k) ∧ out = unmarked (packBytes k bits)

theorem Moved.none (bits : List Bool) : Moved bits [] bits := ⟨0, Nat.zero_le _, rfl, rfl⟩

/-- A block written while bits wait goes behind them. -/
theorem Moved.append {bits queue : List Bool} {out : List OutEntry} (h : Moved bits out queue)
    (l : List Bool) : Moved (bits ++ l) out (queue ++ l) := by
  obtain ⟨k, hk, rfl, rfl⟩ := h
  refine ⟨k, ?_, (List.drop_append_of_le_length hk).symm, by rw [packBytes_append hk]⟩
  rw [List.length_append]
  exact Nat.le_add_right_of_le hk

/-- Whole bytes moved out do not change the padding (R274). -/
theorem Moved.padded {bits queue : List Bool} {out : List OutEntry} (h : Moved bits out queue) :
    Moved (padded bits) out (padded queue) := by
  have hpad : padLength queue.length = padLength bits.length := by
    obtain ⟨k, hk, rfl, -⟩ := h
    rw [padLength, padLength, List.length_drop]
    omega
  rw [Machine.padded, Machine.padded, hpad]
  exact h.append _

/-- DRAIN_BYTE moves one byte more (R275). -/
theorem Moved.drain {bits queue : List Bool} {out : List OutEntry} (h : Moved bits out queue)
    (h8 : 8 ≤ queue.length) :
    Moved bits (out ++ [⟨headByte queue, false⟩]) (queue.drop 8) := by
  obtain ⟨k, hk, rfl, rfl⟩ := h
  rw [List.length_drop] at h8
  refine ⟨k + 1, by omega, by rw [List.drop_drop, Nat.mul_succ], ?_⟩
  rw [packBytes_concat (by omega), unmarked_concat]

/-- With the last byte, all the bytes of the queue have been moved (R272, R276). -/
theorem Moved.last {bits queue : List Bool} {out : List OutEntry} (h : Moved bits out queue)
    (h8 : queue.length = 8) :
    out ++ [⟨headByte queue, true⟩] = lastMarked (packBytes bits.length bits) := by
  obtain ⟨k, hk, rfl, rfl⟩ := h
  rw [List.length_drop] at h8
  have hall : packBytes bits.length bits = packBytes (k + 1) bits :=
    packBytes_of_le (by omega) (by omega)
  rw [hall, packBytes_concat (by omega), lastMarked_concat]

end Sys2Proof.Machine
end

section
/-! SUPPORT. An ENCODE_STEP computes what it would with the whole input present (R281): it is followed by
the same step from a state that holds the bytes still to come as well. -/

namespace Sys2Proof.Machine

/-! ## A state with the rest of the input present -/

/-- `u` is `s` with the bytes `rest` accepted as well: the same cursor, index and open block, and a store
that holds `rest` behind the bytes of `s`. -/
structure Follows (rest : List Byte) (s u : State) : Prop where
  p : u.p = s.p
  r : u.r = s.r + rest.length
  held : ∀ q, s.wstart ≤ q → q < s.r → u.store.read q = s.store.read q
  later : ∀ q, s.r ≤ q → u.store.read q = rest[q - s.r]?
  pindex : u.pindex = s.pindex
  sym : u.sym = s.sym
  symcount : u.symcount = s.symcount
  freqLL : u.freqLL = s.freqLL
  freqD : u.freqD = s.freqD

/-- R281: the whole input is present already, or the lookahead is. -/
def Lookahead (rest : List Byte) (s : State) : Prop := rest = [] ∨ 260 ≤ s.avail

theorem storeOf_read (a : Nat) (l : List Byte) {q : Nat} (h : a ≤ q) :
    (storeOf a l).read q = l[q - a]? := by
  induction l generalizing a with
  | nil => rfl
  | cons b l ih =>
    obtain rfl | hlt := h.eq_or_lt
    · simp [storeOf, Memory.read]
    · have hsucc : q - a = (q - (a + 1)) + 1 := by omega
      simp only [storeOf, Memory.read, if_neg hlt.ne, ih (a + 1) hlt, hsucc,
        List.getElem?_cons_succ]

/-- The loop of R290 starts where the core starts, with the whole input present. -/
theorem follows_withInput (input : List Byte) (turns : List Turn) :
    Follows input { State.reset with turns := turns } (State.withInput input) where
  p := rfl
  r := (Nat.zero_add _).symm
  held q _ hq := absurd hq (Nat.not_lt_zero q)
  later q _ := storeOf_read 0 input (Nat.zero_le q)
  pindex := rfl
  sym := rfl
  symcount := rfl
  freqLL := rfl
  freqD := rfl

namespace Follows

variable {rest : List Byte} {s u : State}

/-- A byte accepted is no longer to come. -/
theorem acceptByte {b : Byte} (h : Follows (b :: rest) s u) : Follows rest (s.acceptByte b) u where
  p := h.p
  r := by rw [h.r, List.length_cons, State.acceptByte_r]; omega
  held q hw hq := by
    have hq' : q < s.r + 1 := hq
    rw [State.acceptByte_store]
    obtain hlt | rfl := Nat.lt_succ_iff_lt_or_eq.1 hq'
    · rw [Memory.read_write_other _ _ _ _ hlt.ne]
      exact h.held q hw hlt
    · rw [Memory.read_write_self, h.later _ le_rfl, Nat.sub_self]
      rfl
  later q hq := by
    have hq' : s.r + 1 ≤ q := hq
    have hsucc : q - s.r = (q - (s.r + 1)) + 1 := by omega
    rw [h.later q (Nat.le_of_succ_le hq'), hsucc, List.getElem?_cons_succ]
    rfl
  pindex := h.pindex
  sym := h.sym
  symcount := h.symcount
  freqLL := h.freqLL
  freqD := h.freqD

/-! ## FIND_BEST_MATCH -/

theorem winRead (h : Follows rest s u) {q : Nat} (hq : q < s.r) : u.winRead q = s.winRead q := by
  have hr : q < u.r := by rw [h.r]; exact Nat.lt_add_right _ hq
  by_cases hw : s.wstart ≤ q
  · have hw' : u.wstart ≤ q := by rwa [State.wstart, h.p]
    rw [State.winRead_eq hw hq, State.winRead_eq hw' hr, h.held q hw hq]
  · have hout : ¬ s.p ≤ q + Config.maxBackrefDist := fun hle => hw ((windowStart_le_iff _ _).2 hle)
    rw [State.winRead, State.winRead, h.p, if_neg fun hin => hout hin.1,
      if_neg fun hin => hout hin.1]

theorem keyAt (h : Follows rest s u) {q : Nat} (hq : q + 2 < s.r) : u.keyAt q = s.keyAt q :=
  State.keyAt_eq_of_winRead fun _ _ hj => h.winRead (by omega)

theorem matchFrom (h : Follows rest s u) {q p n k : Nat} (hqp : q ≤ p) (hr : p + k + n ≤ s.r) :
    u.matchFrom q p n k = s.matchFrom q p n k := by
  induction n generalizing k with
  | zero => rfl
  | succ n ih =>
    rw [State.matchFrom, State.matchFrom, h.winRead (show q + k < s.r by omega),
      h.winRead (show p + k < s.r by omega), ih (by omega)]

theorem scan (h : Follows rest s u) {p cap : Nat} (hr : p + cap ≤ s.r) {l : List Nat}
    (hl : ∀ q ∈ l, q ≤ p) (best : Candidate) : u.scan p cap l best = s.scan p cap l best := by
  induction l generalizing best with
  | nil => rfl
  | cons q l ih =>
    obtain ⟨hq, hl⟩ := List.forall_mem_cons.1 hl
    simp only [State.scan, h.matchFrom hq (k := 0) hr, ih hl]

/-- The comparison cap is the same, and so is the attempt, with the lookahead of R281. -/
theorem findBestMatch (h : Follows rest s u) (hlook : Lookahead rest s) (hx : IndexExact s)
    (hp : s.p ≤ s.r) : u.findBestMatch u.p u.avail = s.findBestMatch s.p s.avail := by
  have hav : u.avail = s.avail + rest.length := by
    rw [State.avail, State.avail, h.p, h.r]
    omega
  have hcap : min Config.maxMatch u.avail = min Config.maxMatch s.avail := by
    obtain rfl | hlook := hlook
    · rw [hav]; rfl
    · simp only [Config.maxMatch]; omega
  have hfew : u.avail < Config.minLookahead ↔ s.avail < Config.minLookahead := by
    obtain rfl | hlook := hlook
    · rw [hav]; rfl
    · simp only [Config.minLookahead]; omega
  unfold State.findBestMatch
  by_cases h4 : s.avail < Config.minLookahead
  · rw [if_pos h4, if_pos (hfew.2 h4)]
  · have hroom : s.p + min Config.maxMatch s.avail ≤ s.r := by
      unfold State.avail
      omega
    have hkey : s.p + 2 < s.r := by
      simp only [Config.minLookahead, State.avail] at h4
      omega
    rw [if_neg h4, if_neg (mt hfew.1 h4), h.p, h.keyAt hkey, hcap, h.pindex]
    cases s.keyAt s.p with
    | none => rfl
    | some key => simp only [h.scan hroom (fun q hq => (hx.mem_get hq).2.le)]

/-! ## CONSUME -/

theorem evictedIndex (h : Follows rest s u) (hp : s.p < s.r) : u.evictedIndex = s.evictedIndex := by
  unfold State.evictedIndex
  rw [h.p, h.pindex]
  split_ifs with hfull
  · simp only [Config.maxBackrefDist] at hfull ⊢
    rw [h.keyAt (by omega)]
  · rfl

/-- The three bytes of the key have been received, or nothing is to come (R281). -/
theorem registeredIndex (h : Follows rest s u) (hrest : rest = [] ∨ s.p + 2 < s.r)
    (x : PrefixIndex) : u.registeredIndex x = s.registeredIndex x := by
  unfold State.registeredIndex
  rw [h.p]
  by_cases hknown : s.p + 2 < s.r
  · have hknown' : s.p + 2 < u.r := by rw [h.r]; omega
    rw [if_pos hknown, if_pos hknown', h.keyAt hknown]
  · obtain rfl := hrest.resolve_right hknown
    have hr : u.r = s.r := h.r
    rw [hr, if_neg hknown, if_neg hknown]

theorem consume (h : Follows rest s u) (hrest : rest = [] ∨ s.p + 2 < s.r) {t : State}
    (hc : s.consume = some t) : ∃ v, u.consume = some v ∧ Follows rest t v := by
  obtain ⟨hp, x, y, hx, hy, rfl⟩ := State.consume_cases hc
  have hp' : u.p < u.r := by rw [h.p, h.r]; exact Nat.lt_add_right _ hp
  have hw : windowStart (s.p + 1) ≤ s.r := (windowStart_le _).trans hp
  refine ⟨{ u with
    p := u.p + 1, pindex := y, store := u.store.dropBelow (windowStart (u.p + 1)) }, ?_, ?_⟩
  · rw [State.consume, if_pos hp', h.evictedIndex hp, hx]
    simp only [h.registeredIndex hrest, hy]
  · refine ⟨congrArg (· + 1) h.p, h.r, fun q hq hr => ?_, fun q hr => ?_, rfl, h.sym, h.symcount,
      h.freqLL, h.freqD⟩
    · have hq' : windowStart (s.p + 1) ≤ q := hq
      simp only [Memory.read_dropBelow, h.p, if_pos hq']
      exact h.held q ((windowStart_le_succ s.p).trans hq') hr
    · have hr' : s.r ≤ q := hr
      simp only [Memory.read_dropBelow, h.p, if_pos (hw.trans hr'), h.later q hr']

theorem consumeN {n : Nat} (h : Follows rest s u) (hrest : rest = [] ∨ s.p + n + 2 ≤ s.r)
    {t : State} (hc : State.consumeN n s = some t) :
    ∃ v, State.consumeN n u = some v ∧ Follows rest t v := by
  induction n generalizing s u with
  | zero =>
    obtain rfl : s = t := Option.some.inj hc
    exact ⟨u, rfl, h⟩
  | succ n ih =>
    unfold State.consumeN at hc ⊢
    split at hc
    · simp at hc
    · rename_i s' hs
      obtain ⟨u', hu, h'⟩ := h.consume (hrest.imp_right fun hr => by omega) hs
      obtain ⟨-, x, y, -, -, rfl⟩ := State.consume_cases hs
      rw [hu]
      exact ih h' (hrest.imp_right fun hr => by simp only; omega) hc

/-! ## ENCODE_STEP -/

theorem recorded (h : Follows rest s u) (hp : s.p < s.r) {c : Candidate} {s' : State} {n : Nat}
    (hrec : s.Recorded c s' n) : ∃ u', u.Recorded c u' n ∧ Follows rest s' u' := by
  cases hrec with
  | pair l d h3 hl hd =>
    refine ⟨_, .pair l d h3 hl hd, h.p, h.r, h.held, h.later, h.pindex, ?_, ?_, ?_, ?_⟩
    · simp [h.sym]
    · simp [h.symcount]
    · simp [h.freqLL]
    · simp [h.freqD]
  | literal b h3 hb =>
    refine ⟨_, .literal b h3 (by rw [h.p, h.winRead hp, hb]), h.p, h.r, h.held, h.later, h.pindex,
      ?_, ?_, ?_, h.freqD⟩
    · simp [h.sym]
    · simp [h.symcount]
    · simp [h.freqLL]

theorem symbufFull (h : Follows rest s u) : u.symbufFull = s.symbufFull := by
  rw [State.symbufFull, State.symbufFull, h.sym]

theorem flushTrigger (h : Follows rest s u) : Follows rest s.flushTrigger u.flushTrigger := by
  rw [State.flushTrigger_eq, State.flushTrigger_eq]
  exact ⟨h.p, h.r, h.held, h.later, h.pindex, h.sym, h.symcount, h.freqLL, h.freqD⟩

end Follows

/-- At least one byte is consumed, and at most as many as the longest match (R157). -/
theorem State.Recorded.bounds {s s' : State} {c : Candidate} {n : Nat} (h : s.Recorded c s' n)
    (hc : s.findBestMatch s.p s.avail = some c) : 0 < n ∧ n ≤ 258 := by
  cases h with
  | pair l d h3 _ _ =>
    obtain ⟨-, hmax, -⟩ := State.findBestMatch_length hc (by omega)
    exact ⟨by omega, hmax⟩
  | literal b _ _ => exact ⟨Nat.one_pos, by decide⟩

/-- What an ENCODE_STEP leaves alone, that the cursor moves on, and the phase it leaves (R282, R283). -/
theorem State.encodeStep_frame {s t : State} (hroom : s.symbufFull = false)
    (h : s.encodeStep = .next t) :
    t.bitq = s.bitq ∧ t.oq = s.oq ∧ t.r = s.r ∧ s.p < t.p ∧
      t.phase = if 800000 < t.symcount.toNat then .flush else s.phase := by
  obtain ⟨c, s', n, u, hc, hrec, hu, rfl⟩ := (State.encodeStep_next_iff hroom).1 h
  obtain ⟨hpos, -⟩ := hrec.bounds hc
  rw [State.flushTrigger_consumeN hu, hrec.frame]
  exact ⟨rfl, rfl, rfl, Nat.lt_add_of_pos_right hpos, rfl⟩

/-- R281: the step from `s` is followed by the step from `s` with the rest of the input present. -/
theorem Follows.encodeStep {rest : List Byte} {s u t : State} (h : Follows rest s u)
    (hlook : Lookahead rest s) (hx : IndexExact s) (hp : s.p < s.r) (hroom : s.symbufFull = false)
    (ht : s.encodeStep = .next t) : ∃ v, u.encodeStep = .next v ∧ Follows rest t v := by
  obtain ⟨c, s', n, w, hc, hrec, hw, rfl⟩ := (State.encodeStep_next_iff hroom).1 ht
  obtain ⟨-, hmax⟩ := hrec.bounds hc
  obtain ⟨u', hrec', h'⟩ := h.recorded hp hrec
  have hrest : rest = [] ∨ s'.p + n + 2 ≤ s'.r := by
    refine hlook.imp_right fun hav => ?_
    rw [hrec.frame]
    simp only [State.avail] at hav ⊢
    omega
  obtain ⟨v, hv, hfollow⟩ := h'.consumeN hrest hw
  exact ⟨_, (State.encodeStep_next_iff (h.symbufFull.trans hroom)).2
    ⟨c, u', n, v, by rw [h.findBestMatch hlook hx hp.le, hc], hrec', hv, rfl⟩, hfollow.flushTrigger⟩

end Sys2Proof.Machine
end

section
/-! SUPPORT. Timing independence (R289): beside a run of the core stands the run of R290's loop on the
whole input, which gets to the same encoder state with the same bits, moved out or waiting. With it the
proof of O60. -/

namespace Sys2Proof.Machine

/-! ## The loop of R290 -/

theorem encodeAll_of_end {s : State} (n : Nat) (h : s.p = s.r) : encodeAll n s = .next s := by
  cases n with
  | zero => rfl
  | succ n => exact if_neg (Nat.not_lt.2 h.ge)

theorem encodeAll_succ {s t : State} (n : Nat) (hp : s.p < s.r) (ht : s.encodeStep = .next t) :
    encodeAll (n + 1) s =
      encodeAll n (if t.phase = .flush then { t.flushStep with phase := .encode } else t) := by
  rw [encodeAll, if_pos hp, ht]
  simp only
  split_ifs <;> rfl

/-- The loop of R290 on `input` comes to `u`, with a bound left that is enough for the rest. -/
def Reaches (input : List Byte) (u : State) : Prop :=
  ∃ n, u.r - u.p ≤ n ∧ encodeAll input.length (State.withInput input) = encodeAll n u

theorem reaches_withInput (input : List Byte) : Reaches input (State.withInput input) :=
  ⟨input.length, le_rfl, rfl⟩

theorem Reaches.encodeStep {input : List Byte} {u v : State} (h : Reaches input u)
    (hp : u.p < u.r) (hstep : u.encodeStep = .next v) (hr : v.r = u.r) (hlt : u.p < v.p) :
    Reaches input (if v.phase = .flush then { v.flushStep with phase := .encode } else v) := by
  obtain ⟨n, hn, hrun⟩ := h
  obtain ⟨n, rfl⟩ := Nat.exists_eq_add_of_le' (show 1 ≤ n by omega)
  refine ⟨n, ?_, hrun.trans (encodeAll_succ n hp hstep)⟩
  obtain ⟨hpf, hrf, -, -⟩ := SameWindow.flushStep v
  split_ifs
  · show v.flushStep.r - v.flushStep.p ≤ n
    omega
  · omega

theorem Reaches.deflateStream {input : List Byte} {u : State} (h : Reaches input u)
    (hp : u.p = u.r) :
    deflateStream input = some (packBytes u.finishStep.bitq.length u.finishStep.bitq) := by
  obtain ⟨n, -, hrun⟩ := h
  rw [Machine.deflateStream, hrun, encodeAll_of_end n hp]

/-! ## The core beside the loop -/

/-- Where a core at `s` stands beside the loop of R290 on `input`, when `popped` has been popped and
`rest` is still to be pushed. -/
inductive Tracks (input : List Byte) (popped : List OutEntry) (rest : List Byte) (s : State) :
    Prop where
  /-- The loop has come to a state that follows the core's; the core has moved out some of its bits. -/
  | encoding (u : State) (hp : s.phase = .encode ∨ s.phase = .drain) (hu : u.phase = .encode)
      (hreach : Reaches input u) (hf : Follows rest s u)
      (hm : Moved u.bitq (popped ++ s.oq) s.bitq)
  /-- The same before a FLUSH, which the loop does within its round. -/
  | full (u : State) (hp : s.phase = .flush)
      (hreach : Reaches input { u.flushStep with phase := .encode }) (hf : Follows rest s u)
      (hm : Moved u.bitq (popped ++ s.oq) s.bitq)
  /-- The final block is written: the stream's bits are fixed. -/
  | final (bits : List Bool) (hp : s.phase = .drainFinal)
      (hstream : deflateStream input = some (packBytes bits.length bits))
      (hm : Moved bits (popped ++ s.oq) s.bitq)
  /-- The whole stream has been moved out. -/
  | done (bytes : List Byte) (hp : s.phase = .done) (hstream : deflateStream input = some bytes)
      (hout : popped ++ s.oq = lastMarked bytes)
  /-- A fault has stopped the core, and nothing is claimed. -/
  | fault (hp : s.phase = .fault)

theorem tracks_reset (input : List Byte) (turns : List Turn) :
    Tracks input [] input { State.reset with turns := turns } :=
  .encoding (State.withInput input) (.inl rfl) rfl (reaches_withInput input)
    (follows_withInput input turns) (Moved.none [])

/-- Once an entry with `last = 1` has been popped, what has been popped is the stream. -/
theorem Tracks.stream {input rest : List Byte} {popped : List OutEntry} {s : State}
    (h : Tracks input popped rest s) (hs : s.phase ≠ .fault) {e : OutEntry} (he : e ∈ popped)
    (hlast : e.last = true) :
    ∃ bytes, deflateStream input = some bytes ∧ popped = lastMarked bytes := by
  have hnone : ∀ {bits queue}, ¬ Moved bits (popped ++ s.oq) queue := by
    rintro bits queue ⟨k, -, -, hout⟩
    have hfalse := last_of_mem_unmarked (hout ▸ List.mem_append_left s.oq he)
    simp [hlast] at hfalse
  cases h with
  | encoding _ _ _ _ _ hm | full _ _ _ _ hm | final _ _ _ hm => exact absurd hm hnone
  | fault hp => exact absurd hp hs
  | done bytes _ hstream hout =>
    have hempty := lastMarked_eq_append hout he hlast
    exact ⟨bytes, hstream, by rw [← hout, hempty, List.append_nil]⟩

/-- A step of the host: it may take bytes of the rest in and entries out. -/
theorem Tracks.host {input rest new : List Byte} {popped out : List OutEntry} {s t : State}
    (h : Tracks input popped (new ++ rest) s) (hp : t.phase = s.phase) (hb : t.bitq = s.bitq)
    (ho : s.oq = out ++ t.oq) (hf : ∀ u, Follows (new ++ rest) s u → Follows rest t u) :
    Tracks input (popped ++ out) rest t := by
  have hsame : popped ++ s.oq = popped ++ out ++ t.oq := by rw [ho, List.append_assoc]
  cases h with
  | encoding u hps hu hreach hs hm =>
    exact .encoding u (hp ▸ hps) hu hreach (hf u hs) (hsame ▸ hb ▸ hm)
  | full u hps hreach hs hm => exact .full u (hp.trans hps) hreach (hf u hs) (hsame ▸ hb ▸ hm)
  | final bits hps hstream hm => exact .final bits (hp.trans hps) hstream (hsame ▸ hb ▸ hm)
  | done bytes hps hstream hout => exact .done bytes (hp.trans hps) hstream (hsame ▸ hout)
  | fault hps => exact .fault (hp.trans hps)

/-! ## The core's steps -/

section CoreSteps

variable {input rest : List Byte} {popped : List OutEntry} {s t : State}

/-- ENCODE_STEP: the loop takes the same step (R281). -/
theorem Tracks.encodeStep (h : Tracks input popped rest s) (hi : Invariant s)
    (henabled : s.enabledStep = some .encodeStep) (hend : s.eoi = true → rest = [])
    (ht : s.encodeStep = .next t) : Tracks input popped rest t := by
  obtain ⟨hp, hlt, hlook⟩ := State.guard_of_encode henabled
  have hroom := hi.sym.symbufFull hp
  obtain ⟨hbitq, hoq, -, -, hphase⟩ := State.encodeStep_frame hroom ht
  cases h with
  | full _ hp' | final _ hp' | done _ hp' | fault hp' => simp [hp] at hp'
  | encoding u _ hu hreach hf hm =>
    obtain ⟨v, hv, hfollow⟩ :=
      hf.encodeStep (hlook.imp_left hend) hi.index.indexExact hlt hroom ht
    obtain ⟨hbitq', -, hr', hlt', hphase'⟩ :=
      State.encodeStep_frame (hf.symbufFull.trans hroom) hv
    have hreach' := hreach.encodeStep (by rw [hf.p, hf.r]; omega) hv hr' hlt'
    rw [hfollow.symcount, hu] at hphase'
    rw [hp] at hphase
    have hm' : Moved v.bitq (popped ++ t.oq) t.bitq := by rw [hbitq', hoq, hbitq]; exact hm
    by_cases hfull : 800000 < t.symcount.toNat
    · rw [if_pos hfull] at hphase hphase'
      rw [if_pos hphase'] at hreach'
      exact .full v hphase hreach' hfollow hm'
    · rw [if_neg hfull] at hphase hphase'
      rw [if_neg (by simp [hphase'])] at hreach'
      exact .encoding v (.inl hphase) hphase' hreach' hfollow hm'

/-- FLUSH: the loop has written the same block (R284). -/
theorem Tracks.flushStep (h : Tracks input popped rest s) (hp : s.phase = .flush) :
    Tracks input popped rest s.flushStep := by
  cases h with
  | encoding _ hp' | final _ hp' | done _ hp' | fault hp' => simp [hp] at hp'
  | full u _ hreach hf hm =>
    obtain ⟨w, hw⟩ := buildDynamicTables_ok s.freqLL s.freqD
    have hw' : buildDynamicTables u.freqLL u.freqD = .ok w := by rw [hf.freqLL, hf.freqD, hw]
    refine .encoding _ (.inr ?_) rfl hreach ?_ ?_
    · rw [State.flushStep_eq hw]
    · rw [State.flushStep_eq hw, State.flushStep_eq hw']
      exact ⟨hf.p, hf.r, hf.held, hf.later, hf.pindex, rfl, rfl, rfl, rfl⟩
    · rw [State.flushStep_eq hw, State.flushStep_eq hw', hf.sym]
      exact hm.append _

/-- DRAIN_BYTE: the loop keeps the bits that the core moves out (R275). -/
theorem Tracks.drainStep (h : Tracks input popped rest s) (hi : PhaseInv s)
    (hp : s.phase = .drain ∨ s.phase = .drainFinal) : Tracks input popped rest s.drainStep := by
  have hoq : popped ++ s.drainStep.oq = popped ++ s.oq ++ [⟨headByte s.bitq, s.drainLast⟩] :=
    (List.append_assoc ..).symm
  cases h with
  | full _ hp' | done _ hp' | fault hp' => simp [hp'] at hp
  | encoding u hp' hu hreach hf hm =>
    have hdrain : s.phase = .drain := by
      obtain hp | hp := hp
      · exact hp
      · simp [hp] at hp'
    have hlast : s.drainLast = false := by simp [State.drainLast, hdrain]
    refine .encoding u ?_ hu hreach ⟨hf.p, hf.r, hf.held, hf.later, hf.pindex, hf.sym, hf.symcount,
      hf.freqLL, hf.freqD⟩ ?_
    · obtain hmore | hend := le_or_gt 16 s.bitq.length
      · exact .inr ((State.drainStep_phase_of_more hmore).trans hdrain)
      · exact .inl (by rw [State.drainStep_phase_of_end hend, hdrain]; rfl)
    · rw [hoq, hlast]
      exact hm.drain (hi.draining hdrain)
  | final bits hp' hstream hm =>
    obtain ⟨h8, hmod⟩ := hi.draining_final hp'
    by_cases hend : s.bitq.length = 8
    · refine .done _ ?_ hstream ?_
      · rw [State.drainStep_phase_of_end (by omega), if_pos hp']
      · rw [hoq, (State.drainLast_iff h8).2 ⟨hp', hend⟩]
        exact hm.last hend
    · have hlast : s.drainLast = false :=
        Bool.eq_false_iff.2 fun hlast => hend ((State.drainLast_iff h8).1 hlast).2
      refine .final bits ?_ hstream ?_
      · rw [State.drainStep_phase_of_more (by omega), hp']
      · rw [hoq, hlast]
        exact hm.drain h8

/-- FINISH: the loop is at its end, and writes and pads the same block (R286). -/
theorem Tracks.finishStep (h : Tracks input popped rest s) (henabled : s.enabledStep = some .finish)
    (hend : s.eoi = true → rest = []) : Tracks input popped rest s.finishStep := by
  obtain ⟨hp, heoi, hpr⟩ := State.guard_of_finish henabled
  cases h with
  | full _ hp' | final _ hp' | done _ hp' | fault hp' => simp [hp] at hp'
  | encoding u _ hu hreach hf hm =>
    obtain rfl := hend heoi
    have hbits : u.finalBits = s.finalBits := by
      simp only [State.finalBits, hf.sym, hf.symcount, hf.freqLL, hf.freqD]
    refine .final _ ?_ (hreach.deflateStream ?_) ?_
    · rw [State.finishStep_eq]
    · rw [hf.p, hf.r, hpr]
      rfl
    · rw [State.finishStep_eq s, State.finishStep_eq u, hbits]
      exact (hm.append _).padded

theorem Tracks.core (h : Tracks input popped rest s) (hi : Invariant s)
    (hend : s.eoi = true → rest = []) (ht : CoreEffect s t) : Tracks input popped rest t := by
  cases ht with
  | stall _ => exact h
  | encode _ henabled ht => exact h.encodeStep hi henabled hend ht
  | flush henabled =>
    have hp : s.phase = .flush := by simpa [henabled] using s.enabledStep_cases
    exact h.flushStep hp
  | drain henabled => exact h.drainStep hi.phase (State.guard_of_drain henabled).1
  | finish henabled => exact h.finishStep henabled hend

end CoreSteps

/-! ## The host's steps -/

/-- The turns to come are those of the spec's two agents, without a reset. -/
def State.noReset (s : State) : Prop := ∀ x ∈ s.turns, x.isElem = false ∧ x.isReset = false

theorem State.noReset.agentsOnly {s : State} (h : s.noReset) : s.agentsOnly := fun x hx => (h x hx).1

theorem State.noReset.kept {s t : State} (h : s.noReset) (hstep : step s = .next t) : t.noReset := by
  intro x hx
  rw [step_turns hstep] at hx
  exact h x (List.mem_of_mem_drop hx)

/-- Without resets a step is one of the core's or a command other than SOFT_RESET. -/
theorem State.noReset.core_or_command {s t : State} (h : s.noReset) (hstep : step s = .next t) :
    (s.nextTurn = .core ∧ CoreEffect s.takeTurn t) ∨
      ∃ w, s.nextTurn = .cmd w ∧ w ≠ 0xF000 ∧ CommandEffect w s.takeTurn t := by
  have hturn : s.nextTurn.isElem = false ∧ s.nextTurn.isReset = false := by
    cases ht : s.turns with
    | nil => simp [State.nextTurn_of_nil ht, Turn.isElem, Turn.isReset]
    | cons x turns =>
      rw [State.nextTurn_of_turns ht]
      exact h x (by rw [ht]; exact List.mem_cons_self)
  cases step_effect hstep with
  | core hx _ he => exact .inl ⟨hx, he⟩
  | command w hx _ he => exact .inr ⟨w, hx, by simpa [hx, Turn.isReset] using hturn.2, he⟩
  | rst hx => simp [hx, Turn.isReset] at hturn
  | element c hx _ _ _ _ => simp [hx, Turn.isElem] at hturn

/-- What the host sees of a core step: nothing. -/
theorem viewStep_core {s : State} (t : State) (h : s.nextTurn = .core) : viewStep s t = ([], []) := by
  unfold viewStep
  rw [h]

theorem viewStep_cmd {s : State} (t : State) {w : CmdWord} (h : s.nextTurn = .cmd w) :
    viewStep s t =
      (if s.r < t.r then [w.setWidth 8] else [], if w = 0x3000 then s.oq.take 1 else []) := by
  unfold viewStep
  rw [h]

/-- A POP takes the oldest entry, if there is one (R305). -/
theorem execPop_oq {s t : State} (h : execPop s = .next t) : s.oq = s.oq.take 1 ++ t.oq := by
  unfold execPop at h
  split at h
  · rename_i hq
    rw [← Host.Outcome.next.inj h, State.respond_oq, hq]
    rfl
  · rename_i e rest hq
    rw [← Host.Outcome.next.inj h, hq]
    rfl

/-- The FIFO loses what the host sees popped (R305), unless a fault empties it. -/
theorem oq_of_command {s t : State} {w : CmdWord} (hx : s.nextTurn = .cmd w) (hw : w ≠ 0xF000)
    (hstep : step s = .next t) (hf : t.phase ≠ .fault) : s.oq = (viewStep s t).2 ++ t.oq := by
  rw [viewStep_cmd t hx]
  by_cases hpop : w = 0x3000
  · subst hpop
    rw [step_cmd_ok hx (show decodeCmd 0x3000 = .ok .pop by decide)] at hstep
    rw [if_pos rfl]
    exact execPop_oq (s := s.takeTurn) hstep
  · rw [if_neg hpop]
    cases step_cmd_effect hx hstep with
    | fault c _ => exact absurd rfl hf
    | popped e rest hn _ => exact absurd (BitVec.eq_of_toNat_eq hn) hpop
    | reset hreset => exact absurd hreset hw
    | _ => rfl

theorem Follows.takeTurn {rest : List Byte} {s u : State} (h : Follows rest s u) :
    Follows rest s.takeTurn u :=
  ⟨h.p, h.r, h.held, h.later, h.pindex, h.sym, h.symcount, h.freqLL, h.freqD⟩

/-- A command that neither faults nor resets accepts a byte, or leaves all but `EOI`, the FIFO and the
response alone. -/
theorem CommandEffect.accept_or_frame {w : CmdWord} {s t : State} (h : CommandEffect w s t)
    (hw : w ≠ 0xF000) (hf : t.phase ≠ .fault) :
    (∃ b : Byte, w.toNat = 4096 + b.toNat ∧ t = s.acceptByte b) ∨
      t = { s with eoi := t.eoi, oq := t.oq, resp := t.resp } := by
  cases h with
  | fault c _ => exact absurd rfl hf
  | reset hreset => exact absurd hreset hw
  | accept b hn _ _ _ _ => exact .inl ⟨b, hn, rfl⟩
  | _ => exact .inr rfl

/-- A command leaves the phase and the bit queue alone, unless it faults or resets. -/
theorem CommandEffect.phase_bitq {w : CmdWord} {s t : State} (h : CommandEffect w s t)
    (hw : w ≠ 0xF000) (hf : t.phase ≠ .fault) : t.phase = s.phase ∧ t.bitq = s.bitq := by
  obtain ⟨b, -, ht⟩ | ht := h.accept_or_frame hw hf <;> rw [ht] <;> exact ⟨rfl, rfl⟩

/-- What the host sees pushed is no longer to come (R303). -/
theorem CommandEffect.follows {w : CmdWord} {s t u : State} {rest : List Byte}
    (h : CommandEffect w s t) (hw : w ≠ 0xF000) (hf : t.phase ≠ .fault)
    (hu : Follows ((if s.r < t.r then [w.setWidth 8] else []) ++ rest) s u) : Follows rest t u := by
  obtain ⟨b, hn, rfl⟩ | ht := h.accept_or_frame hw hf
  · have hb : w.setWidth 8 = b := BitVec.eq_of_toNat_eq (by
      have hlt := b.isLt
      rw [BitVec.toNat_setWidth, hn]
      omega)
    rw [if_pos (show s.r < (s.acceptByte b).r from Nat.lt_succ_self _), hb] at hu
    exact hu.acceptByte
  · have hr : t.r = s.r := by rw [ht]
    rw [hr, if_neg (Nat.lt_irrefl _)] at hu
    rw [ht]
    exact ⟨hu.p, hu.r, hu.held, hu.later, hu.pindex, hu.sym, hu.symcount, hu.freqLL, hu.freqD⟩

/-! ## The run -/

/-- In `FAULT` no step of the core is enabled (R344). -/
theorem State.enabledStep_of_fault {s : State} (hp : s.phase = .fault) : s.enabledStep = none := by
  unfold State.enabledStep
  rw [hp]

/-- Only a reset leaves `FAULT` (R345). -/
theorem State.noReset.fault {s t : State} (h : s.noReset) (hstep : step s = .next t)
    (hp : s.phase = .fault) : t.phase = .fault := by
  obtain ⟨-, he⟩ | ⟨w, -, hw, he⟩ := h.core_or_command hstep
  · have hnone : s.takeTurn.enabledStep = none := State.enabledStep_of_fault hp
    cases he with
    | stall _ => exact hp
    | encode _ h' | flush h' | drain h' | finish h' => simp [hnone] at h'
  · by_contra hf
    exact hf ((he.phase_bitq hw hf).1.trans hp)

/-- After the end of input nothing is pushed (R303, R378). -/
theorem State.noReset.ended {s t : State} (h : s.noReset) (hstep : step s = .next t)
    (he : s.eoi = true) : t.eoi = true ∧ (viewStep s t).1 = [] := by
  obtain ⟨hx, heffect⟩ | ⟨w, hx, hw, heffect⟩ := h.core_or_command hstep
  · exact ⟨heffect.sameInput.eoi.trans he, by rw [viewStep_core t hx]⟩
  · rw [viewStep_cmd t hx]
    cases heffect with
    | accept b _ _ he' _ _ => simp [he] at he'
    | ended _ he' => simp [he] at he'
    | reset hreset => exact absurd hreset hw
    | _ => exact ⟨he, if_neg (Nat.lt_irrefl _)⟩

theorem viewRun_succ {n : Nat} {s : State} {v : RunView} (h : viewRun (n + 1) s = some v) :
    ∃ t v', step s = .next t ∧ viewRun n t = some v' ∧
      v = ⟨v'.final, (viewStep s t).1 ++ v'.pushed, (viewStep s t).2 ++ v'.popped⟩ := by
  unfold viewRun at h
  split at h
  · rename_i t ht
    split at h
    · rename_i v' hv
      exact ⟨t, v', ht, hv, (Option.some.inj h).symm⟩
    · simp at h
  · simp at h

theorem viewRun_pushed_of_ended {n : Nat} {s : State} {v : RunView} (h : viewRun n s = some v)
    (hs : s.noReset) (he : s.eoi = true) : v.pushed = [] := by
  induction n generalizing s v with
  | zero => obtain rfl := Option.some.inj h; rfl
  | succ n ih =>
    obtain ⟨t, v', hstep, hv, rfl⟩ := viewRun_succ h
    obtain ⟨het, hnew⟩ := hs.ended hstep he
    simp only [hnew, ih hv (hs.kept hstep) het, List.append_nil]

/-- One step of either agent. -/
theorem Tracks.step {input rest : List Byte} {popped : List OutEntry} {s t : State}
    (h : Tracks input popped ((viewStep s t).1 ++ rest) s) (hs : s.noReset) (hi : Invariant s)
    (hend : s.eoi = true → rest = []) (hstep : step s = .next t) :
    Tracks input (popped ++ (viewStep s t).2) rest t := by
  by_cases hf : t.phase = .fault
  · exact .fault hf
  obtain ⟨hx, heffect⟩ | ⟨w, hx, hw, heffect⟩ := hs.core_or_command hstep
  · rw [viewStep_core t hx] at h ⊢
    have htaken : Tracks input (popped ++ []) rest s.takeTurn :=
      h.host (new := []) rfl rfl rfl fun _ => Follows.takeTurn
    obtain ⟨hcursor, hstore, hindex, hsym, hfreq, hphase, hout, hsize⟩ := hi
    exact htaken.core ⟨⟨hcursor.cursor, hcursor.lookahead⟩, hstore,
      ⟨hindex.canonical, hindex.exact, hindex.received⟩, hsym.congr rfl rfl rfl,
      hfreq.congr rfl rfl rfl, hphase.takeTurn, hout, hsize⟩ hend heffect
  · obtain ⟨hp, hb⟩ := heffect.phase_bitq hw hf
    refine h.host hp hb (oq_of_command hx hw hstep hf) fun u hu => ?_
    rw [viewStep_cmd t hx] at hu
    exact heffect.follows hw hf hu.takeTurn

/-- A whole run keeps the core beside the loop. -/
theorem Tracks.viewRun {input : List Byte} {n : Nat} {popped : List OutEntry} {s : State}
    {v : RunView} (h : Tracks input popped v.pushed s) (hrun : viewRun n s = some v)
    (hs : s.noReset) (hi : Invariant s) : Tracks input (popped ++ v.popped) [] v.final := by
  induction n generalizing popped s v with
  | zero =>
    obtain rfl := Option.some.inj hrun
    rwa [List.append_nil]
  | succ n ih =>
    have hend := fun he => viewRun_pushed_of_ended hrun hs he
    obtain ⟨t, v', hstep, hv, rfl⟩ := viewRun_succ hrun
    have ht := h.step hs hi (fun he => (List.append_eq_nil_iff.1 (hend he)).2) hstep
    rw [← List.append_assoc]
    exact ih ht hv (hs.kept hstep) (step_invariant hstep hs.agentsOnly hi)

/-- Every invariant of R52 holds at reset, whatever the turns to come. -/
theorem reset_invariant (turns : List Turn) : Invariant { State.reset with turns := turns } where
  cursor := ⟨le_rfl, Nat.zero_le _⟩
  store := rfl
  index := ⟨reset_pindex_wf, fun _ => rfl, fun _ => .inl rfl⟩
  sym := .of_empty rfl rfl
  freq := .of_empty rfl rfl rfl
  phase := .of_tail (.inl rfl) (Nat.zero_lt_succ 7)
  out := .of_empty rfl
  size := rfl

/-- Settles O60: the run keeps the core beside the loop of R290 on the bytes pushed, and once the entry
with `last = 1` is popped the stream is out. -/
theorem timingIndependence : Obligations.TimingIndependence := by
  rintro n turns v hturns hrun hfinal ⟨e, he, hlast⟩
  exact ((tracks_reset v.pushed turns).viewRun hrun hturns (reset_invariant turns)).stream hfinal
    (by simpa using he) hlast

end Sys2Proof.Machine
end

section
/-! SUPPORT. The host's commands one by one (R302 to R308): what each answers, case by case, and what
they come to in `FAULT` and in `DONE` (R310, R311). With it the proofs of O10 to O14, O16, O20 and
O21. -/

namespace Sys2Proof.Machine

/-! ## NOP -/

/-- Settles O10: NOP responds 0. -/
theorem nopResult : Obligations.NopResult := fun _ => rfl

/-! ## PUSH -/

theorem execPush_of_fault {s : State} (b : Byte) (hp : s.phase = .fault) :
    execPush b s = .next (s.respond 0) := if_pos hp

theorem execPush_of_ended {s : State} (b : Byte) (hp : s.phase ≠ .fault) (he : s.eoi = true) :
    execPush b s = .next (s.raiseHost .pushAfterEoi) := by
  rw [execPush, if_neg hp, if_pos he]

theorem execPush_of_open {s : State} (b : Byte) (hp : s.phase ≠ .fault) (he : s.eoi = false) :
    execPush b s =
      if Config.laCap ≤ s.avail then .next (s.respond 0)
      else if s.r + 1 = 2 ^ Config.posWidth then .next (s.raiseHost .positionOverflow)
      else .next (s.acceptByte b) := by
  rw [execPush, if_neg hp, if_neg (Bool.eq_false_iff.1 he)]
  simp only [lookaheadFull_iff, positionLimit_iff]

/-- Positions less than `RING_SIZE` apart have different ring indices. -/
theorem ringIndex_ne {a b : Nat} (hab : a < b) (hb : b < a + Config.ringSize) :
    ringIndex a ≠ ringIndex b := by
  intro heq
  have hdvd : Config.ringSize ∣ b - a := (Nat.modEq_iff_dvd' hab.le).1 heq
  have hle := Nat.le_of_dvd (Nat.sub_pos_of_lt hab) hdvd
  omega

/-- While the lookahead has room, the window and the lookahead are shorter than the ring: the next byte
is written over none of them (R303 (b)). -/
theorem CursorInv.ringIndex_ne_next {s : State} (h : CursorInv s) (hroom : s.avail < Config.laCap)
    {q : Nat} (hlo : s.wstart ≤ q) (hhi : q < s.r) : ringIndex q ≠ ringIndex s.r := by
  have hcursor := h.cursor
  have hwindow : s.p ≤ q + 32768 := (windowStart_le_iff _ _).1 hlo
  have hring := ringSize_ge
  unfold State.avail at hroom
  exact ringIndex_ne hhi (by omega)

/-- Settles O11, outcome by outcome. -/
theorem pushResult : Obligations.PushResult := by
  intro s b
  refine ⟨execPush_of_fault b, execPush_of_ended b, ?full, ?limit, ?accepted⟩
  case full =>
    intro hp he hfull
    exact (execPush_of_open b hp he).trans (if_pos hfull)
  case limit =>
    intro hp he hroom hlimit
    exact (execPush_of_open b hp he).trans ((if_neg (Nat.not_le.2 hroom)).trans (if_pos hlimit))
  case accepted =>
    intro hp he hroom hlimit
    exact ⟨(execPush_of_open b hp he).trans ((if_neg (Nat.not_le.2 hroom)).trans (if_neg hlimit)),
      Memory.read_write_self _ _ _, fun q hq => Memory.read_write_other _ _ _ _ hq,
      fun hc _ => hc.ringIndex_ne_next hroom⟩

/-! ## EOI -/

theorem execEoi_of_fault {s : State} (hp : s.phase = .fault) : execEoi s = .next (s.respond 0) :=
  if_pos hp

theorem execEoi_of_ended {s : State} (hp : s.phase ≠ .fault) (he : s.eoi = true) :
    execEoi s = .next (s.raiseHost .eoiTwice) := by
  rw [execEoi, if_neg hp, if_pos he]

theorem execEoi_of_open {s : State} (hp : s.phase ≠ .fault) (he : s.eoi = false) :
    execEoi s = .next ({ s with eoi := true }.respond 0) := by
  rw [execEoi, if_neg hp, if_neg (Bool.eq_false_iff.1 he)]

/-- After the end of input no PUSH is ready to be taken (R301). -/
theorem State.inReady_of_ended {s : State} (he : s.eoi = true) : s.inReady = false := by
  rw [← Bool.not_eq_true, State.inReady_iff, he]
  rintro ⟨-, hopen, -⟩
  exact Bool.noConfusion hopen

/-- Settles O12, outcome by outcome. -/
theorem eoiResult : Obligations.EoiResult := fun _ =>
  ⟨execEoi_of_fault, execEoi_of_ended,
    fun hp he => ⟨execEoi_of_open hp he, rfl, State.inReady_of_ended rfl⟩⟩

/-! ## POP -/

theorem execPop_of_nil {s : State} (h : s.oq = []) : execPop s = .next (s.respond 0) := by
  unfold execPop
  rw [h]

theorem execPop_of_cons {s : State} {e : OutEntry} {rest : List OutEntry} (h : s.oq = e :: rest) :
    execPop s = .next ({ s with oq := rest }.respond (popResponse e)) := by
  unfold execPop
  rw [h]

/-- The response of POP bit by bit (R93): the byte, `VALID`, `LAST`, and 0 above. -/
theorem popResponse_getLsbD (e : OutEntry) (k : Nat) :
    (popResponse e).getLsbD k =
      if k < 8 then e.byte.getLsbD k
      else if k = 8 then true
      else if k = 9 then e.last
      else false := by
  -- `getLsbD_append` needs the width as the sum it comes from.
  show BitVec.getLsbD (w := 22 + 1 + 1 + 8) (0#22 ++ BitVec.ofBool e.last ++ 1#1 ++ e.byte) k = _
  simp only [BitVec.getLsbD_append, BitVec.getLsbD_ofBool, BitVec.getLsbD_one, BitVec.getLsbD_zero]
  obtain hbyte | rfl | rfl | hhigh : k < 8 ∨ k = 8 ∨ k = 9 ∨ 10 ≤ k := by omega
  · simp [hbyte]
  · simp
  · simp
  · simp (disch := omega) [if_neg]

theorem popResponse_byte (e : OutEntry) : (popResponse e).setWidth 8 = e.byte :=
  BitVec.setWidth_append_eq_right

theorem popResponse_high (e : OutEntry) {i : Nat} (h : 10 ≤ i) :
    (popResponse e).getLsbD i = false := by
  rw [popResponse_getLsbD, if_neg (by omega), if_neg (by omega), if_neg (by omega)]

/-- Settles O13: the head's response is `popResponse`, whose bits are said above. -/
theorem popResult : Obligations.PopResult := fun _ =>
  ⟨execPop_of_nil, fun e _ hoq =>
    ⟨popResponse e, execPop_of_cons hoq, popResponse_byte e, popResponse_getLsbD e 8,
      popResponse_getLsbD e 9, fun _ => popResponse_high e⟩⟩

/-! ## READ_REG -/

/-- The reserved indices read 0 (R49). -/
theorem State.readReg_of_reserved (s : State) {idx : Byte} (h : 9 ≤ idx.toNat) :
    s.readReg idx = 0 := by
  unfold State.readReg
  split
  case h_10 => rfl
  all_goals omega

theorem State.readReg_cursor (s : State) : (s.readReg 6).toNat = s.p % 2 ^ 32 :=
  BitVec.toNat_ofNat ..

theorem State.readReg_faultcode (s : State) : (s.readReg 7).toNat = s.faultcode.toNat :=
  BitVec.toNat_setWidth_of_le (by decide)

theorem State.readReg_oqCount {s : State} (h : s.oq.length < 2 ^ 32) :
    (s.readReg 8).toNat = s.oq.length :=
  (BitVec.toNat_ofNat ..).trans (Nat.mod_eq_of_lt h)

/-- Settles O14, register by register. -/
theorem readRegResult : Obligations.ReadRegResult := by
  intro s idx
  refine ⟨s.readReg idx, rfl, ?_, ?_, ?_, ?_, ?_, ?_, ?cursor, ?faultcode, ?count,
    s.readReg_of_reserved⟩
  case cursor => rintro rfl; exact s.readReg_cursor
  case faultcode => rintro rfl; exact s.readReg_faultcode
  case count => rintro rfl; exact State.readReg_oqCount
  all_goals
    rintro rfl
    rfl

/-! ## ABORT -/

theorem execAbort_of_fault {s : State} (hp : s.phase = .fault) : execAbort s = .next (s.respond 0) :=
  if_pos hp

theorem execAbort_of_ne_fault {s : State} (hp : s.phase ≠ .fault) :
    execAbort s = .next (s.raiseHost .inputAbort) := if_neg hp

/-- Settles O16: the two branches of ABORT. -/
theorem abortResult : Obligations.AbortResult := fun _ =>
  ⟨execAbort_of_ne_fault, execAbort_of_fault⟩

/-! ## Commands in FAULT and DONE -/

/-- SOFT_RESET leaves every element of the table of R51 at its reset value (R308). -/
theorem softReset_resetFields (s : State) :
    ∃ t, exec .softReset s = .next t ∧ ResetFields t :=
  ⟨s.doReset.respond 0, rfl, { resetState with coreId := rfl }⟩

/-- In `DONE` no step of the core is enabled (R287). -/
theorem State.enabledStep_of_done {s : State} (hp : s.phase = .done) : s.enabledStep = none := by
  unfold State.enabledStep
  rw [hp]

/-- Settles O20: each command by its outcome in `FAULT`, where the FIFO is empty. -/
theorem commandsInFault : Obligations.CommandsInFault := by
  intro s hp hi
  obtain ⟨-, hoq⟩ := hi.stopped hp
  exact ⟨fun b => execPush_of_fault b hp, execEoi_of_fault hp, execAbort_of_fault hp,
    fun w rest hw => (illegalWords _ w rest rfl hw).2 hp,
    nopResult s, execPop_of_nil hoq, fun _ => rfl, softReset_resetFields s⟩

/-- Settles O21: each command by its outcome outside `FAULT` after the end of input. -/
theorem commandsInDone : Obligations.CommandsInDone := by
  intro s hp hi
  obtain ⟨he, -⟩ := hi.ended (.inr hp)
  have hf : s.phase ≠ .fault := by rw [hp]; decide
  exact ⟨fun b => execPush_of_ended b hf he, execEoi_of_ended hf he, execAbort_of_ne_fault hf,
    fun w rest hw => (illegalWords _ w rest rfl hw).1 hf,
    nopResult s, execPop_of_nil, fun _ _ => execPop_of_cons, fun _ => rfl,
    softReset_resetFields s, State.coreTurn_stalled (State.enabledStep_of_done hp)⟩

end Sys2Proof.Machine
end

section
/-! SUPPORT. Fault entry (R341) and what a step does in `FAULT` (R344, R345): a command other than
SOFT_RESET keeps the phase and the code, and the core agent has no step. With it the proofs of O18 and
O19. -/

namespace Sys2Proof.Machine

/-! ## Fault entry -/

/-- Settles O18: fault entry writes the four elements it names, and a host command the response. -/
theorem faultEntry : Obligations.FaultEntry :=
  ⟨fun _ _ => ⟨rfl, rfl⟩, rfl, rfl, rfl, rfl, rfl, rfl, rfl, rfl⟩

/-! ## FAULT and FAULTCODE stay -/

/-- In `FAULT` a command that is no SOFT_RESET raises nothing and keeps the code: every effect that
writes the phase or the code is guarded by another phase (R303 to R309, R344). -/
theorem CommandEffect.fault_kept {w : CmdWord} {s t : State} (h : CommandEffect w s t)
    (hw : w ≠ 0xF000) (hp : s.phase = .fault) : t.phase = .fault ∧ t.faultcode = s.faultcode := by
  cases h with
  | respond v => exact ⟨hp, rfl⟩
  | popped e rest _ _ => exact ⟨hp, rfl⟩
  | fault c hne => exact absurd hp hne
  | accept b _ hne _ _ _ => exact absurd hp hne
  | ended hne _ => exact absurd hp hne
  | reset hreset => exact absurd hreset hw

/-- In `FAULT` the core agent's turn only passes: no step of it is enabled (R344). -/
theorem step_core_of_fault {s : State} (hx : s.nextTurn = .core) (hp : s.phase = .fault) :
    step s = .next s.takeTurn :=
  (step_core hx).trans (State.coreTurn_stalled (State.enabledStep_of_fault hp))

/-- Settles O19, turn by turn: a command answers and keeps the fault, and the core's turn passes. -/
theorem faultSticky : Obligations.FaultSticky := by
  intro s hp hreset helem
  cases hx : s.nextTurn with
  | cmd w =>
    have hw : w ≠ 0xF000 := by simpa [hx, Turn.isReset] using hreset
    obtain ⟨t, ht⟩ := step_cmd_next hx
    exact ⟨t, ht, (step_cmd_effect hx ht).fault_kept hw hp⟩
  | core => exact ⟨s.takeTurn, step_core_of_fault hx hp, hp, rfl⟩
  | rst => simp [hx, Turn.isReset] at hreset
  | elem c => simp [hx, Turn.isElem] at helem

end Sys2Proof.Machine
end

section
/-! SUPPORT. What the host may rely on between two of its commands (R378, R380): a core step of a state
that meets the invariants does not fault, takes nothing back from the host, and leaves the input as it
is. With it the proofs of O22 and O23. -/

namespace Sys2Proof.Machine

/-! ## The input between two PUSHes -/

/-- Which commands change the input's counters: an accepted PUSH, and no other that is no reset. -/
theorem CommandEffect.input_cases {w : CmdWord} {s t : State} (h : CommandEffect w s t)
    (hw : w ≠ 0xF000) :
    (∃ b : Byte, w.toNat = 4096 + b.toNat ∧ s.eoi = false ∧ t = s.acceptByte b) ∨
      ((s.eoi = true → t.eoi = true) ∧ t.r = s.r ∧ t.crc = s.crc ∧ t.isize = s.isize) := by
  cases h with
  | accept b hn _ he _ _ => exact .inl ⟨b, hn, he, rfl⟩
  | ended _ _ => exact .inr ⟨fun _ => rfl, rfl, rfl, rfl⟩
  | reset hreset => exact absurd hreset hw
  | respond _ | fault _ _ | popped _ _ _ _ => exact .inr ⟨id, rfl, rfl, rfl⟩

theorem ElementEffect.sameInput {s t : State} (h : ElementEffect s t) : SameInput s t := by
  cases h <;> exact ⟨rfl, rfl, rfl, rfl, rfl⟩

/-- The word of a PUSH, `OPC` 1 above the byte (R91). -/
theorem pushWord_eq {w : CmdWord} {b : Byte} (h : w.toNat = 4096 + b.toNat) : w = 0x10#8 ++ b := by
  refine BitVec.eq_of_toNat_eq ?_
  have hb := b.isLt
  rw [h, BitVec.toNat_append, ← Nat.shiftLeft_add_eq_or_of_lt hb, Nat.shiftLeft_eq]
  rfl

/-- Which steps change the input's counters, outside a reset: that of an accepted PUSH alone. -/
theorem step_input_cases {s t : State} (h : step s = .next t) (hreset : s.nextTurn.isReset = false) :
    (∃ b : Byte, s.nextTurn = .cmd (0x10#8 ++ b) ∧ s.eoi = false ∧ t = s.takeTurn.acceptByte b) ∨
      ((s.eoi = true → t.eoi = true) ∧ t.r = s.r ∧ t.crc = s.crc ∧ t.isize = s.isize) := by
  have hsame : SameInput s.takeTurn t → (s.eoi = true → t.eoi = true) ∧ t.r = s.r ∧ t.crc = s.crc ∧
      t.isize = s.isize := fun hi => ⟨hi.eoi.trans, hi.r, hi.crc, hi.isize⟩
  cases step_effect h with
  | command w hx _ he =>
    have hw : w ≠ 0xF000 := by simpa [hx, Turn.isReset] using hreset
    refine (he.input_cases hw).imp_left ?_
    rintro ⟨b, hn, heoi, rfl⟩
    exact ⟨b, by rw [hx, pushWord_eq hn], heoi, rfl⟩
  | core _ _ he => exact .inr (hsame he.sameInput)
  | rst hx => simp [hx, Turn.isReset] at hreset
  | element c _ i _ _ he => exact .inr (hsame he.sameInput)

/-- Settles O22: a step is an accepted PUSH, taken with `EOI = 0`, or keeps the counters. -/
theorem onlyPushChangesInput : Obligations.OnlyPushChangesInput := by
  intro s t hstep hreset
  obtain ⟨b, hx, he, rfl⟩ | ⟨heoi, hr, hcrc, hisize⟩ := step_input_cases hstep hreset
  · exact ⟨fun hend => absurd hend (by simp [he]), fun _ => ⟨b, hx, he, rfl, rfl, rfl, rfl⟩⟩
  · refine ⟨fun hend => ⟨heoi hend, hr, hcrc, hisize⟩, fun hchanged => ?_⟩
    simp [hr, hcrc, hisize] at hchanged

/-! ## What core steps leave the host -/

/-- From `s` to `t` the core has only moved on: it has consumed input, added to the FIFO, and raised no
fault. -/
structure Onward (s t : State) : Prop where
  p : s.p ≤ t.p
  r : t.r = s.r
  eoi : t.eoi = s.eoi
  oq : s.oq <+: t.oq
  running : s.phase ≠ .fault → t.phase ≠ .fault
  turns : t.turns = s.turns

theorem Onward.refl (s : State) : Onward s s :=
  ⟨le_rfl, rfl, rfl, List.prefix_refl _, id, rfl⟩

theorem Onward.trans {s t u : State} (h : Onward s t) (h' : Onward t u) : Onward s u where
  p := h.p.trans h'.p
  r := h'.r.trans h.r
  eoi := h'.eoi.trans h.eoi
  oq := h.oq.trans h'.oq
  running := h'.running ∘ h.running
  turns := h'.turns.trans h.turns

/-- FLUSH can always build its tables (R243), so it drains. -/
theorem State.flushStep_phase (s : State) : s.flushStep.phase = .drain := by
  obtain ⟨w, hw⟩ := buildDynamicTables_ok s.freqLL s.freqD
  rw [State.flushStep_eq hw]

theorem State.flushStep_oq (s : State) : s.flushStep.oq = s.oq := by
  obtain ⟨w, hw⟩ := buildDynamicTables_ok s.freqLL s.freqD
  rw [State.flushStep_eq hw]
  rfl

theorem State.finishStep_phase (s : State) : s.finishStep.phase = .drainFinal := by
  rw [State.finishStep_eq]

theorem State.finishStep_oq (s : State) : s.finishStep.oq = s.oq := by
  rw [State.finishStep_eq]
  rfl

/-- A step that drains ends in a phase of the core's at work. -/
theorem State.drainStep_phase_ne_fault {s : State} (hp : s.phase ≠ .fault) :
    s.drainStep.phase ≠ .fault := by
  rw [State.drainStep_phase]
  split_ifs
  · decide
  · decide
  · exact hp

/-- With a block that is within its bounds no core step faults (R348), and none takes an entry from the
FIFO. -/
theorem CoreEffect.onward {s t : State} (h : CoreEffect s t) (hs : SymInv s) : Onward s t := by
  obtain ⟨hr, heoi, -, -, hturns⟩ := h.sameInput
  cases h with
  | stall _ => exact .refl s
  | encode _ he ht =>
    obtain ⟨hp, -, -⟩ := State.guard_of_encode he
    obtain ⟨-, hoq, -, hlt, hphase⟩ := State.encodeStep_frame (hs.symbufFull hp) ht
    refine ⟨hlt.le, hr, heoi, hoq ▸ List.prefix_refl _, fun hne => ?_, hturns⟩
    rw [hphase]
    split_ifs
    · decide
    · exact hne
  | flush _ =>
    have hwindow := SameWindow.flushStep s
    exact ⟨hwindow.p.ge, hr, heoi, s.flushStep_oq ▸ List.prefix_refl _,
      fun _ => by simp [s.flushStep_phase], hturns⟩
  | drain _ =>
    exact ⟨le_rfl, hr, heoi, List.prefix_append _ _, State.drainStep_phase_ne_fault, hturns⟩
  | finish _ =>
    have hwindow := SameWindow.finishStep s
    exact ⟨hwindow.p.ge, hr, heoi, s.finishStep_oq ▸ List.prefix_refl _,
      fun _ => by simp [s.finishStep_phase], hturns⟩

theorem run_succ_of_next {n : Nat} {s a : State} (h : step s = .next a) :
    Host.Core.run Sys2Proof.core (n + 1) s = Host.Core.run Sys2Proof.core n a := by
  simp [Host.Core.run, Sys2Proof.core, h]

/-- However many core steps run with no turn of the host's between them, they answer, and the core has
only moved on. -/
theorem Invariant.run_onward {s : State} (hi : Invariant s) (hturns : s.turns = []) (n : Nat) :
    ∃ t, Host.Core.run Sys2Proof.core n s = .next t ∧ Onward s t := by
  induction n generalizing s with
  | zero => exact ⟨s, rfl, .refl s⟩
  | succ n ih =>
    have hagents : s.agentsOnly := by simp [State.agentsOnly, hturns]
    obtain ⟨a, ha, hinv, -⟩ := everyStepSafe s hi hagents
    have htake : s.takeTurn = s := by rw [State.takeTurn, hturns, List.drop_nil, ← hturns]
    have hturn := ha
    rw [step_core (State.nextTurn_of_nil hturns), htake] at hturn
    have hstep : Onward s a := (State.coreTurn_effect hturn).onward hi.sym
    obtain ⟨t, ht, hrest⟩ := ih hinv (hstep.turns.trans hturns)
    exact ⟨t, (run_succ_of_next ha).trans ht, hstep.trans hrest⟩

/-! ## The snapshots -/

/-- A host that has seen `IN_READY` still sees it: only the lookahead can have become shorter. -/
theorem Onward.inReady {s t : State} (h : Onward s t) (hs : s.inReady = true) : t.inReady = true := by
  rw [State.inReady_iff] at hs ⊢
  obtain ⟨hp, he, hroom⟩ := hs
  have hcursor := h.p
  refine ⟨h.running hp, h.eoi.trans he, ?_⟩
  rw [h.r]
  omega

/-- Where `IN_READY` is set a PUSH is accepted, below the position limit (R301, R303). -/
theorem execPush_of_inReady {s : State} (h : s.inReady = true)
    (hlimit : s.r + 1 ≠ 2 ^ Config.posWidth) (b : Byte) :
    execPush b s = .next (s.acceptByte b) := by
  obtain ⟨hp, he, hroom⟩ := s.inReady_iff.1 h
  have hfree : ¬ Config.laCap ≤ s.avail := Nat.not_le.2 hroom
  rw [execPush_of_open b hp he, if_neg hfree, if_neg hlimit]

/-- A FIFO that held an entry still does, and POP answers it with `VALID = 1` (R305). -/
theorem Onward.pop_valid {s t : State} (h : Onward s t) (hs : 0 < s.oq.length) :
    ∃ u, execPop t = .next u ∧ u.resp.getLsbD 8 = true := by
  obtain ⟨e, rest, hoq⟩ : ∃ e rest, t.oq = e :: rest :=
    List.exists_cons_of_length_pos (hs.trans_le h.oq.length_le)
  exact ⟨_, execPop_of_cons hoq, popResponse_getLsbD e 8⟩

/-- Settles O23: the core has only moved on, which keeps what the two flags said. -/
theorem statusSnapshots : Obligations.StatusSnapshots := by
  intro s n hi hturns
  obtain ⟨t, ht, honward⟩ := hi.run_onward hturns n
  refine ⟨t, ht, fun hready => ?_, fun hvalid => ?_⟩
  · have hready' := honward.inReady ((s.status_getLsbD 0).symm.trans hready)
    exact ⟨(State.status_getLsbD t 0).trans hready', fun hlimit b => ⟨_, execPush_of_inReady hready' hlimit b, rfl, rfl⟩⟩
  · have hentry := (s.status_getLsbD 1).symm.trans hvalid
    exact honward.pop_valid (of_decide_eq_true hentry)

end Sys2Proof.Machine
end

section
/-! SUPPORT. The encoder and the decoder undo each other (R90 to R104), format by format: which word an
instruction has, and which instruction a word stands for. With it the proofs of O1 to O3, and what the
step makes of a decoded word: the proofs of O6, O7 and O17. -/

namespace Sys2Proof.Machine

/-! ## Decoding the encoded words -/

theorem decode_cmdCode {opc arg : Nat} (h : opc * 4096 + arg < 65536) :
    decode (cmdCode opc arg) = decodeCmd (BitVec.ofNat 16 (opc * 4096 + arg)) := by
  have hn : (cmdCode opc arg).bits.toNat = opc * 4096 + arg := by
    rw [cmdCode, BitVec.toNat_ofNat]
    omega
  simp only [decode, hn, if_pos h]
  rfl

theorem decode_llCode {sym xv : Nat} (hs : sym < 512) (hx : xv < 32) :
    decode (llCode sym xv) = decodeLL sym xv := by
  have hn : (llCode sym xv).bits.toNat = sym + xv * 512 := by
    rw [llCode, BitVec.toNat_ofNat]
    omega
  show decodeLL ((llCode sym xv).bits.toNat % 512) ((llCode sym xv).bits.toNat / 512) = _
  rw [hn, show (sym + xv * 512) % 512 = sym by omega, show (sym + xv * 512) / 512 = xv by omega]

theorem decode_dCode {sym xv : Nat} (hs : sym < 32) (hx : xv < 8192) :
    decode (dCode sym xv) = decodeD sym xv := by
  have hn : (dCode sym xv).bits.toNat = sym + xv * 32 := by
    rw [dCode, BitVec.toNat_ofNat]
    omega
  show decodeD ((dCode sym xv).bits.toNat % 32) ((dCode sym xv).bits.toNat / 32) = _
  rw [hn, show (sym + xv * 32) % 32 = sym by omega, show (sym + xv * 32) / 32 = xv by omega]

theorem decode_clCode {sym xv : Nat} (hs : sym < 32) (hx : xv < 128) :
    decode (clCode sym xv) = decodeCL sym xv := by
  have hn : (clCode sym xv).bits.toNat = sym + xv * 32 := by
    rw [clCode, BitVec.toNat_ofNat]
    omega
  show decodeCL ((clCode sym xv).bits.toNat % 32) ((clCode sym xv).bits.toNat / 32) = _
  rw [hn, show (sym + xv * 32) % 32 = sym by omega, show (sym + xv * 32) / 32 = xv by omega]

theorem decode_bhCode {btype bfinal : Nat} (hb : btype < 4) (hf : bfinal < 2) :
    decode (bhCode btype bfinal) = decodeBH btype bfinal := by
  have hn : (bhCode btype bfinal).bits.toNat = bfinal + btype * 2 := by
    rw [bhCode, BitVec.toNat_ofNat]
    omega
  have h8 : bfinal + btype * 2 < 8 := by omega
  simp only [decode, hn, show (bhCode btype bfinal).fmt = .bh3 from rfl, if_pos h8]
  rw [show (bfinal + btype * 2) / 2 = btype by omega, show (bfinal + btype * 2) % 2 = bfinal by omega]

/-! ## Each instruction from its own word -/

/-- An extra value of its own width is in range (R104). -/
theorem withExtra_toNat {n : Nat} (xv : BitVec n) (mk : BitVec n → Instr) :
    withExtra n xv.toNat mk = .ok (mk xv) := by
  rw [withExtra, if_pos xv.isLt, BitVec.ofNat_toNat, BitVec.setWidth_eq]

/-- A command with an operand (R92): `OPC` is not reserved and `RSV` is 0. -/
theorem decode_cmdCode_operand {opc : Nat} {b : Byte} {i : Instr} (hopc : opc < 6)
    (h : decodeOpcode opc b.toNat = .ok i) : decode (cmdCode opc b.toNat) = .ok i := by
  have hb := b.isLt
  have hw : (BitVec.ofNat 16 (opc * 4096 + b.toNat)).toNat = opc * 4096 + b.toNat := by
    rw [BitVec.toNat_ofNat]
    omega
  have hfields : (cmdOpc (BitVec.ofNat 16 (opc * 4096 + b.toNat))).toNat = opc ∧
      (cmdArg (BitVec.ofNat 16 (opc * 4096 + b.toNat))).toNat = b.toNat := by
    rw [cmdOpc_toNat, cmdArg_toNat, hw]
    omega
  have hrsv : cmdRsv (BitVec.ofNat 16 (opc * 4096 + b.toNat)) = 0 := by
    rw [cmdRsv_eq_zero_iff, hw]
    omega
  rw [decode_cmdCode (by omega), decodeCmd_of_not_reserved (by omega), if_pos hrsv, hfields.1,
    hfields.2, h]

/-- A reserved opcode with its free bits (R91, R94). -/
theorem decode_cmdCode_reserved {opc : Nat} {arg : BitVec 12} {mk : BitVec 12 → Instr} (hopc : opc < 16)
    (h : ∀ w : CmdWord, w.toNat / 4096 = opc →
      decodeCmd w = .ok (mk (BitVec.ofNat 12 (w.toNat % 4096)))) :
    decode (cmdCode opc arg.toNat) = .ok (mk arg) := by
  have ha := arg.isLt
  have hw : (BitVec.ofNat 16 (opc * 4096 + arg.toNat)).toNat = opc * 4096 + arg.toNat := by
    rw [BitVec.toNat_ofNat]
    omega
  have hlow : BitVec.ofNat 12 ((opc * 4096 + arg.toNat) % 4096) = arg :=
    BitVec.eq_of_toNat_eq (by rw [BitVec.toNat_ofNat]; omega)
  rw [decode_cmdCode (by omega), h _ (by omega), hw, hlow]

theorem decode_llCode_extra {n sym : Nat} {mk : BitVec n → Instr} (xv : BitVec n) (hs : sym < 512)
    (hn : 2 ^ n ≤ 32) (h : ∀ x, decodeLL sym x = withExtra n x mk) :
    decode (llCode sym xv.toNat) = .ok (mk xv) := by
  rw [decode_llCode hs (xv.isLt.trans_le hn), h, withExtra_toNat]

theorem decode_dCode_extra {n sym : Nat} {mk : BitVec n → Instr} (xv : BitVec n) (hs : sym < 32)
    (hn : 2 ^ n ≤ 8192) (h : ∀ x, decodeD sym x = withExtra n x mk) :
    decode (dCode sym xv.toNat) = .ok (mk xv) := by
  rw [decode_dCode hs (xv.isLt.trans_le hn), h, withExtra_toNat]

theorem decode_clCode_extra {n sym : Nat} {mk : BitVec n → Instr} (xv : BitVec n) (hs : sym < 32)
    (hn : 2 ^ n ≤ 128) (h : ∀ x, decodeCL sym x = withExtra n x mk) :
    decode (clCode sym xv.toNat) = .ok (mk xv) := by
  rw [decode_clCode hs (xv.isLt.trans_le hn), h, withExtra_toNat]

/-- A literal is its byte (R102). -/
theorem decode_llCode_lit (b : Byte) : decode (llCode b.toNat 0) = .ok (.lit b) := by
  have hb : b.toNat < 256 := b.isLt
  rw [decode_llCode (by omega) (by decide)]
  unfold decodeLL
  rw [if_pos hb, noExtra, if_pos rfl, BitVec.ofNat_toNat, BitVec.setWidth_eq]

/-- Symbol 284 has no extra value 31, and a well-formed instruction none either (R141). -/
theorem decode_llCode_len284 {xv : BitVec 5} (h : xv.toNat < 31) :
    decode (llCode 284 xv.toNat) = .ok (.len284 xv) := by
  rw [decode_llCode (by decide) xv.isLt]
  show (if xv.toNat = 31 then _ else withExtra 5 xv.toNat .len284) = _
  rw [if_neg h.ne, withExtra_toNat]

theorem decode_bhCode_bfinal {btype : Nat} {mk : BitVec 1 → Instr} (f : BitVec 1) (hb : btype < 4)
    (h : ∀ x, decodeBH btype x = .ok (mk (BitVec.ofNat 1 x))) :
    decode (bhCode btype f.toNat) = .ok (mk f) := by
  rw [decode_bhCode hb f.isLt, h, BitVec.ofNat_toNat, BitVec.setWidth_eq]

/-- Settles O1, row by row of the opcode table: a row without operand is one word, and the others are
decoded by the lemma of their format. -/
theorem decodeEncodeAgree : Obligations.DecodeEncodeAgree := by
  intro i hwf
  cases i with
  | push b => exact decode_cmdCode_operand (by decide) (decodeOpcode_push b)
  | readReg idx => exact decode_cmdCode_operand (by decide) (decodeOpcode_readReg idx)
  | reservedOpc6 arg | reservedOpc7 arg | reservedOpc8 arg | reservedOpc9 arg | reservedOpcA arg
  | reservedOpcB arg | reservedOpcC arg | reservedOpcD arg | reservedOpcE arg =>
    exact decode_cmdCode_reserved (by decide) fun w hw => by simp only [decodeCmd, hw]
  | lit b => exact decode_llCode_lit b
  | len284 xv => exact decode_llCode_len284 (of_decide_eq_true hwf)
  | len265 xv | len266 xv | len267 xv | len268 xv | len269 xv | len270 xv | len271 xv | len272 xv
  | len273 xv | len274 xv | len275 xv | len276 xv | len277 xv | len278 xv | len279 xv | len280 xv
  | len281 xv | len282 xv | len283 xv =>
    exact decode_llCode_extra xv (by decide) (by decide) fun _ => rfl
  | dist4 xv | dist5 xv | dist6 xv | dist7 xv | dist8 xv | dist9 xv | dist10 xv | dist11 xv | dist12 xv
  | dist13 xv | dist14 xv | dist15 xv | dist16 xv | dist17 xv | dist18 xv | dist19 xv | dist20 xv
  | dist21 xv | dist22 xv | dist23 xv | dist24 xv | dist25 xv | dist26 xv | dist27 xv | dist28 xv
  | dist29 xv =>
    exact decode_dCode_extra xv (by decide) (by decide) fun _ => rfl
  | cl16 xv | cl17 xv | cl18 xv => exact decode_clCode_extra xv (by decide) (by decide) fun _ => rfl
  | blockFixed f | blockDynamic f => exact decode_bhCode_bfinal f (by decide) fun _ => rfl
  | _ => rfl

/-! ## Each word from its own instruction -/

/-- What a result of the decoder that is an instruction says: its word is `c`, it is well-formed, and
running it has the effect `run`. -/
def Reads (c : Code) (run : State → State) (result : Except DecodeError Instr) : Prop :=
  ∀ i, result = .ok i → encode i = c ∧ i.wf = true ∧ ∀ s, exec i s = .next (run s)

theorem Reads.error (c : Code) (run : State → State) (e : DecodeError) : Reads c run (.error e) :=
  fun _ h => nomatch h

theorem Reads.ok {c : Code} {run : State → State} {i : Instr} (hc : encode i = c) (hwf : i.wf = true)
    (hrun : ∀ s, exec i s = .next (run s)) : Reads c run (.ok i) := by
  intro j h
  obtain rfl := Except.ok.inj h
  exact ⟨hc, hwf, hrun⟩

/-- A row without extra bits: its only extra value is 0. -/
theorem Reads.noExtra {code : Nat → Code} {run : Nat → State → State} {i : Instr} (xv : Nat)
    (hc : encode i = code 0) (hwf : i.wf = true) (hrun : ∀ s, exec i s = .next (run 0 s)) :
    Reads (code xv) (run xv) (noExtra xv i) := by
  unfold Sys2Proof.noExtra
  split
  next h => exact h ▸ .ok hc hwf hrun
  next => exact .error _ _ _

/-- A row with `n` extra bits. -/
theorem Reads.withExtra {n : Nat} {code : Nat → Code} {run : Nat → State → State}
    {mk : BitVec n → Instr} (xv : Nat) (hc : ∀ x : BitVec n, encode (mk x) = code x.toNat)
    (hwf : xv < 2 ^ n → (mk (BitVec.ofNat n xv)).wf = true)
    (hrun : ∀ (x : BitVec n) (s : State), exec (mk x) s = .next (run x.toNat s)) :
    Reads (code xv) (run xv) (withExtra n xv mk) := by
  unfold Sys2Proof.withExtra
  split
  next h =>
    have hx : (BitVec.ofNat n xv).toNat = xv := by rw [BitVec.toNat_ofNat, Nat.mod_eq_of_lt h]
    refine .ok ?_ (hwf h) fun s => ?_
    · rw [hc, hx]
    · rw [hrun, hx]
  next => exact .error _ _ _

/-- The extra bits of a literal/length symbol (R102, R104): none below 257. -/
def llExtra (sym : Nat) : Nat := if sym < 257 then 0 else lenExtra.getD (sym - 257) 0

theorem reads_decodeLL (sym xv : Nat) :
    Reads (llCode sym xv) (fun s => s.putLL sym xv (llExtra sym)) (decodeLL sym xv) := by
  unfold decodeLL
  split
  next hlit =>
    have hb : (BitVec.ofNat 8 sym).toNat = sym := by rw [BitVec.toNat_ofNat, Nat.mod_eq_of_lt hlit]
    have h0 : llExtra sym = 0 := if_pos (by omega)
    refine .noExtra (code := llCode sym) (run := fun xv s => s.putLL sym xv (llExtra sym)) xv ?_ rfl ?_
    · rw [encode, hb]
    · intro s
      rw [h0]
      show Host.Outcome.next (s.putLL (BitVec.ofNat 8 sym).toNat 0 0) = _
      rw [hb]
  next =>
    split
    case h_29 =>
      split
      next => exact .error _ _ _
      next h31 =>
        refine .withExtra (code := llCode 284) (run := fun xv s => s.putLL 284 xv _) xv (fun _ => rfl)
          (fun hlt => decide_eq_true ?_) fun _ _ => rfl
        rw [BitVec.toNat_ofNat]
        omega
    case h_31 => exact .error _ _ _
    case h_1 | h_2 | h_3 | h_4 | h_5 | h_6 | h_7 | h_8 | h_9 | h_30 =>
      exact .noExtra (code := llCode _) (run := fun xv s => s.putLL _ xv _) xv rfl rfl fun _ => rfl
    all_goals
      exact .withExtra (code := llCode _) (run := fun xv s => s.putLL _ xv _) xv (fun _ => rfl)
        (fun _ => rfl) fun _ _ => rfl

theorem reads_decodeD (sym xv : Nat) :
    Reads (dCode sym xv) (fun s => s.putD sym xv (distExtra.getD sym 0)) (decodeD sym xv) := by
  unfold decodeD
  split
  case h_31 => exact .error _ _ _
  case h_1 | h_2 | h_3 | h_4 =>
    exact .noExtra (code := dCode _) (run := fun xv s => s.putD _ xv _) xv rfl rfl fun _ => rfl
  all_goals
    exact .withExtra (code := dCode _) (run := fun xv s => s.putD _ xv _) xv (fun _ => rfl)
      (fun _ => rfl) fun _ _ => rfl

/-- The extra bits of a CL symbol (R101, R104): none up to 15. -/
def clExtra (sym : Nat) : Nat := if sym < 16 then 0 else [2, 3, 7].getD (sym - 16) 0

theorem reads_decodeCL (sym xv : Nat) :
    Reads (clCode sym xv) (fun s => s.putCL sym xv (clExtra sym)) (decodeCL sym xv) := by
  unfold decodeCL
  split
  case h_17 | h_18 | h_19 =>
    exact .withExtra (code := clCode _) (run := fun xv s => s.putCL _ xv _) xv (fun _ => rfl)
      (fun _ => rfl) fun _ _ => rfl
  case h_20 => exact .error _ _ _
  all_goals
    exact .noExtra (code := clCode _) (run := fun xv s => s.putCL _ xv _) xv rfl rfl fun _ => rfl

theorem encode_of_decodeBH {btype bfinal : Nat} {i : Instr} (hf : bfinal < 2)
    (h : decodeBH btype bfinal = .ok i) : encode i = bhCode btype bfinal ∧ i.wf = true := by
  have hbit : (BitVec.ofNat 1 bfinal).toNat = bfinal := by rw [BitVec.toNat_ofNat, Nat.mod_eq_of_lt hf]
  unfold decodeBH at h
  split at h
  next =>
    obtain rfl := Except.ok.inj h
    exact ⟨by rw [encode, hbit], rfl⟩
  next =>
    obtain rfl := Except.ok.inj h
    exact ⟨by rw [encode, hbit], rfl⟩
  next => exact nomatch h

theorem CommandWord.encode_eq {n : Nat} {i : Instr} (h : CommandWord n i) :
    encode i = ⟨.cmd16, BitVec.ofNat 32 n⟩ ∧ i.wf = true := by
  cases h <;> exact ⟨rfl, rfl⟩

theorem ofNat_toNat_code (fmt : Format) (b : BitVec 32) {n : Nat} (h : n = b.toNat) :
    (⟨fmt, BitVec.ofNat 32 n⟩ : Code) = ⟨fmt, b⟩ := by
  rw [h, BitVec.ofNat_toNat, BitVec.setWidth_eq]

/-- Settles O2, format by format: what decodes is read from the fields the encoder writes. -/
theorem encodeDecodeAgree : Obligations.EncodeDecodeAgree := by
  rintro ⟨fmt, bits⟩ i h
  cases fmt with
  | cmd16 =>
    by_cases hn : bits.toNat < 65536
    · have hcmd : decodeCmd (BitVec.ofNat 16 bits.toNat) = .ok i := by simpa [decode, hn] using h
      obtain ⟨hcode, hwf⟩ := (decodeCmd_word hcmd).encode_eq
      refine ⟨hcode.trans (ofNat_toNat_code _ _ ?_), hwf⟩
      rw [BitVec.toNat_ofNat, Nat.mod_eq_of_lt hn]
    · simp [decode, hn] at h
  | ll9 =>
    obtain ⟨hcode, hwf, -⟩ := reads_decodeLL _ _ i h
    exact ⟨hcode.trans (ofNat_toNat_code _ _ (Nat.mod_add_div' ..)), hwf⟩
  | d5 =>
    obtain ⟨hcode, hwf, -⟩ := reads_decodeD _ _ i h
    exact ⟨hcode.trans (ofNat_toNat_code _ _ (Nat.mod_add_div' ..)), hwf⟩
  | cl5 =>
    obtain ⟨hcode, hwf, -⟩ := reads_decodeCL _ _ i h
    exact ⟨hcode.trans (ofNat_toNat_code _ _ (Nat.mod_add_div' ..)), hwf⟩
  | bh3 =>
    by_cases hn : bits.toNat < 8
    · have hbh : decodeBH (bits.toNat / 2) (bits.toNat % 2) = .ok i := by simpa [decode, hn] using h
      obtain ⟨hcode, hwf⟩ := encode_of_decodeBH (Nat.mod_lt _ two_pos) hbh
      exact ⟨hcode.trans (ofNat_toNat_code _ _ (Nat.mod_add_div' ..)), hwf⟩
    · simp [decode, hn] at h

/-- Settles O3: the thirteen words, each decoded. -/
theorem decodeSampleWords : Obligations.DecodeSampleWords := by
  unfold Obligations.DecodeSampleWords
  decide

/-! ## The step of a decoded word -/

/-- The decoder of a command word brings only well-formed instructions to the step (R300). -/
theorem decodeCmd_wf {w : CmdWord} {i : Instr} (h : decodeCmd w = .ok i) : i.wf = true :=
  (decodeCmd_word h).encode_eq.2

/-- A word whose format is not the command's is decoded as an element (log 5). -/
theorem decodeElement_of_ne {c : Code} (h : c.fmt ≠ .cmd16) : decodeElement c = decode c := by
  obtain ⟨fmt, bits⟩ := c
  cases fmt with
  | cmd16 => exact absurd rfl h
  | ll9 | d5 | cl5 | bh3 => rfl

theorem turnOfCode_of_ne {c : Code} (h : c.fmt ≠ .cmd16) : turnOfCode c = .elem c := by
  obtain ⟨fmt, bits⟩ := c
  cases fmt with
  | cmd16 => exact absurd rfl h
  | ll9 | d5 | cl5 | bh3 => rfl

/-- Settles O6, turn by turn. -/
theorem stepRunsDecoded : Obligations.StepRunsDecoded := by
  intro s rest
  refine ⟨fun w i hs hi => ⟨decodeCmd_wf hi, ?command⟩, fun c i hs hc hi => ?element, fun hs => ?core,
    fun hs => ?reset, fun hs => ?none⟩
  case command => rw [step_cmd_ok (State.nextTurn_of_turns hs) hi, State.takeTurn_of_turns hs]
  case element =>
    rw [step_elem_ok (State.nextTurn_of_turns hs) ((decodeElement_of_ne hc).trans hi),
      State.takeTurn_of_turns hs]
  case core => rw [step_core (State.nextTurn_of_turns hs), State.takeTurn_of_turns hs]
  case reset => rw [step_rst (State.nextTurn_of_turns hs), State.takeTurn_of_turns hs]
  case none =>
    rw [step_core (State.nextTurn_of_nil hs), State.takeTurn, hs, List.drop_nil, ← hs]

/-- The turn an encoded word is brought in by runs the instruction the word decodes to (log 8). -/
theorem step_turnOfCode {s : State} {c : Code} {i : Instr} (h : decode c = .ok i) :
    step { s with turns := turnOfCode c :: s.turns } = exec i s := by
  by_cases hc : c.fmt = .cmd16
  · have hturn : turnOfCode c = .cmd (c.bits.setWidth 16) := by rw [turnOfCode, hc]
    have hcmd : decodeCmd (c.bits.setWidth 16) = .ok i := by
      unfold decode at h
      simp only [hc] at h
      split at h
      next => rwa [BitVec.ofNat_toNat] at h
      next => exact nomatch h
    rw [hturn]
    exact step_cmd_ok rfl hcmd
  · rw [turnOfCode_of_ne hc]
    exact step_elem_ok rfl ((decodeElement_of_ne hc).trans h)

/-- Settles O7: the table word is put in as the turn of its encoded word. -/
theorem fetchedWordRuns : Obligations.FetchedWordRuns := by
  intro s nbits w i h
  unfold decodeTableWord at h
  split at h
  next =>
    split at h
    next j hj =>
      obtain rfl := Option.some.inj h
      exact step_turnOfCode hj
    next => exact nomatch h
  next => exact nomatch h

/-- Settles O17: each of the nine runs `ILLEGAL()` (R309). -/
theorem reservedOpcodes : Obligations.ReservedOpcodes := by
  intro s arg i hi
  have hexec : exec i s = .next s.illegal := by
    simp only [List.mem_cons, List.not_mem_nil, or_false] at hi
    obtain rfl | rfl | rfl | rfl | rfl | rfl | rfl | rfl | rfl := hi <;> rfl
  rw [hexec]
  exact ⟨fun hp => congrArg _ (State.illegal_of_ne_fault hp),
    fun hp => congrArg _ (State.illegal_of_fault hp)⟩

end Sys2Proof.Machine
end

section
/-! SUPPORT. The elements of the stream and the blocks made of them (R98 to R105, R242, R251, R252): what
each element appends, and that a payload is its elements one after another. With it the proofs of O24 to
O29. -/

namespace Sys2Proof.Machine

/-! ## One element -/

theorem State.putLL_eq (s : State) (sym xv xb : Nat) : s.putLL sym xv xb = s.afterLL sym xv xb := rfl

theorem State.putD_eq (s : State) (sym xv xb : Nat) : s.putD sym xv xb = s.afterD sym xv xb := rfl

theorem State.putCL_eq (s : State) (sym xv xb : Nat) : s.putCL sym xv xb = s.afterCL sym xv xb := rfl

/-- Settles O24: each of these instructions is `putLL` of its symbol. -/
theorem literalLengthElements : Obligations.LiteralLengthElements := by
  intro s
  simp only [← State.putLL_eq]
  repeat' apply And.intro
  all_goals
    intros
    rfl

/-- Settles O25: each of these instructions is `putD` of its symbol. -/
theorem distanceElements : Obligations.DistanceElements := by
  intro s
  simp only [← State.putD_eq]
  repeat' apply And.intro
  all_goals
    intros
    rfl

/-- Settles O26: each of these instructions is `putCL` of its symbol. -/
theorem codeLengthElements : Obligations.CodeLengthElements := by
  intro s
  simp only [← State.putCL_eq]
  repeat' apply And.intro
  all_goals
    intros
    rfl

/-! ## The two blocks -/

/-- The header of a fixed block: `BFINAL`, then `BTYPE = 1` (R98). -/
theorem headerBits_fixed (f : BitVec 1) : headerBits f.toNat 1 = [f.getLsbD 0, true, false] := by
  revert f
  decide

/-- The header of a dynamic block: `BFINAL`, then `BTYPE = 2` (R98). -/
theorem headerBits_dynamic (f : BitVec 1) : headerBits f.toNat 2 = [f.getLsbD 0, false, true] := by
  revert f
  decide

/-- EOB has no extra bits (R102). -/
theorem llBits_eob (t : CodeTables) :
    llBits t 256 0 0 = codeBits (entry t.codeLL 256).toNat (entry t.lenLL 256).toNat :=
  List.append_nil _

/-- The EOB code of a fixed block: 7 zeros (R241, R212). -/
theorem llBits_fixed_eob : llBits fixedTables 256 0 0 = List.replicate 7 false := by
  obtain ⟨-, -, hcodes, -⟩ := fixedCodes
  obtain ⟨hlen, hcode⟩ := hcodes 256 (by decide) (by decide)
  rw [llBits_eob, hlen, hcode]
  rfl

/-- Settles O27: header, Symbols and EOB of WRITE_FIXED_BLOCK (R242). -/
theorem fixedBlockElement : Obligations.FixedBlockElement := by
  intro s f
  have hbits : (s.writeFixedBlock f).bitq =
      s.bitq ++ ([f.getLsbD 0, true, false] ++
        (s.sym.flatMap (symBits fixedTables) ++ List.replicate 7 false)) := by
    rw [State.writeFixedBlock_bitq, List.append_assoc, headerBits_fixed, payloadBits, llBits_fixed_eob]
  show Host.Outcome.next (s.writeFixedBlock f) = _
  rw [← hbits]
  rfl

/-- Where the tables are built, the element is WRITE_DYNAMIC_BLOCK with them (R251). -/
theorem execBlockDynamic_of_tables {s : State} {w : Work} (f : BitVec 1)
    (h : buildDynamicTables s.freqLL s.freqD = .ok w) :
    execBlockDynamic f s = .next (s.writeDynamicWith f w) := by
  rw [execBlockDynamic, State.writeDynamicBlock, h]

/-- Settles O28: the tables can be built, and the block is header, tables, Symbols and EOB. -/
theorem dynamicBlockElement : Obligations.DynamicBlockElement := by
  intro s f
  obtain ⟨w, hw⟩ := buildDynamicTables_ok s.freqLL s.freqD
  refine ⟨w, hw, (execBlockDynamic_of_tables f hw).trans ?_⟩
  have hbits := State.writeDynamicWith_bits s f w
  rw [dynamicBits, headerBits_dynamic, payloadBits, llBits_eob] at hbits
  exact congrArg _ (congrArg (fun l => { s with kind := .dynamic, work := w, bitq := l }) hbits)

/-! ## The payload -/

/-- An instruction that stands for a Symbol: its word is the Symbol's, and running it appends the Symbol's
bits with the payload's tables (R252). -/
structure Spells (i : Instr) (e : Sym) : Prop where
  code : encode i = e.code
  wf : i.wf = true
  run : ∀ s : State, exec i s = .next (s.appendBits (symBits s.payloadTables e))

theorem spells_lit (b : Byte) : Spells (.lit b) (.lit b) := ⟨rfl, rfl, fun _ => rfl⟩

theorem noExtra_ok_of_lt {xv : Nat} (i : Instr) (h : xv < 2 ^ 0) : ∃ j, noExtra xv i = .ok j :=
  ⟨i, if_pos (Nat.lt_one_iff.1 h)⟩

theorem withExtra_ok_of_lt {n xv : Nat} (mk : BitVec n → Instr) (h : xv < 2 ^ n) :
    ∃ j, withExtra n xv mk = .ok j := ⟨_, if_pos h⟩

/-- A length symbol whose extra value its row admits decodes (R102, R104). -/
theorem decodeLL_of_lenOk {sym xv xb : Nat} (h : lenOk sym xv xb = true) :
    llExtra sym = xb ∧ ∃ i, decodeLL sym xv = .ok i := by
  simp only [lenOk, Bool.and_eq_true, decide_eq_true_eq] at h
  obtain ⟨⟨⟨⟨hlo, hhi⟩, hxb⟩, hxv⟩, hlength⟩ := h
  rw [hxb] at hxv ⊢
  refine ⟨if_neg (by omega), ?_⟩
  unfold decodeLL
  rw [if_neg (by omega)]
  split
  case h_1 => exact absurd hlo (by decide)
  case h_29 =>
    have h31 : ¬ xv = 31 := by
      have hle : 227 + xv ≤ 257 := hlength.resolve_left (by decide)
      omega
    exact ⟨_, (if_neg h31).trans (if_pos hxv)⟩
  case h_31 =>
    simp only [imp_false] at *
    omega
  case h_2 | h_3 | h_4 | h_5 | h_6 | h_7 | h_8 | h_9 | h_30 => exact noExtra_ok_of_lt _ hxv
  all_goals exact withExtra_ok_of_lt _ hxv

/-- A distance symbol whose extra value its row admits decodes (R103, R104). -/
theorem decodeD_of_distOk {sym xv xb : Nat} (h : distOk sym xv xb = true) :
    distExtra.getD sym 0 = xb ∧ ∃ i, decodeD sym xv = .ok i := by
  simp only [distOk, Bool.and_eq_true, decide_eq_true_eq] at h
  obtain ⟨⟨hhi, rfl⟩, hxv⟩ := h
  refine ⟨rfl, ?_⟩
  obtain hlo | hlo := Nat.lt_or_ge sym 4
  · interval_cases sym <;> exact noExtra_ok_of_lt _ hxv
  · interval_cases sym <;> exact withExtra_ok_of_lt _ hxv

theorem exists_spells_len {sym xv xb : Nat} (h : lenOk sym xv xb = true) :
    ∃ i, Spells i (.len sym xv xb) := by
  obtain ⟨rfl, i, hi⟩ := decodeLL_of_lenOk h
  obtain ⟨hcode, hwf, hrun⟩ := reads_decodeLL sym xv i hi
  exact ⟨i, hcode, hwf, hrun⟩

theorem exists_spells_dist {sym xv xb : Nat} (h : distOk sym xv xb = true) :
    ∃ i, Spells i (.dist sym xv xb) := by
  obtain ⟨rfl, i, hi⟩ := decodeD_of_distOk h
  obtain ⟨hcode, hwf, hrun⟩ := reads_decodeD sym xv i hi
  exact ⟨i, hcode, hwf, hrun⟩

/-- Each Symbol of a well-formed sequence is spelt by an instruction (R27). -/
theorem exists_spells_of_symsOk {l : List Sym} (h : symsOk l = true) :
    ∃ is : List Instr, List.Forall₂ Spells is l := by
  induction l using symsOk.induct with
  | case1 => exact ⟨[], .nil⟩
  | case2 b rest ih =>
    obtain ⟨is, his⟩ := ih h
    exact ⟨_, .cons (spells_lit b) his⟩
  | case3 sym xv xb d dx db rest ih =>
    simp only [symsOk, Bool.and_eq_true] at h
    obtain ⟨⟨hlen, hdist⟩, hrest⟩ := h
    obtain ⟨i, hi⟩ := exists_spells_len hlen
    obtain ⟨j, hj⟩ := exists_spells_dist hdist
    obtain ⟨is, his⟩ := ih hrest
    exact ⟨_, .cons hi (.cons hj his)⟩
  | case4 => simp [symsOk] at h
  | case5 => simp [symsOk] at h

theorem map_encode_of_spells {is : List Instr} {l : List Sym} (h : List.Forall₂ Spells is l) :
    is.map encode = l.map Sym.code := by
  induction h with
  | nil => rfl
  | cons hi _ ih => rw [List.map_cons, List.map_cons, hi.code, ih]

theorem wf_of_spells {is : List Instr} {l : List Sym} (h : List.Forall₂ Spells is l) :
    ∀ i ∈ is, i.wf = true := by
  induction h with
  | nil => exact fun _ hi => nomatch hi
  | cons hi _ ih => exact List.forall_mem_cons.2 ⟨hi.wf, ih⟩

theorem execAll_cons_of_next {i : Instr} {s t : State} (rest : List Instr) (h : exec i s = .next t) :
    execAll (i :: rest) s = execAll rest t := by
  rw [execAll, h]

/-- Instructions that spell Symbols append their bits, one after another, and leave the payload's tables
as they are. -/
theorem execAll_spells {is : List Instr} {l : List Sym} (h : List.Forall₂ Spells is l) (s : State)
    (rest : List Instr) :
    execAll (is ++ rest) s =
      execAll rest (s.appendBits (l.flatMap (symBits s.payloadTables))) := by
  induction h generalizing s with
  | nil =>
    rw [List.nil_append, List.flatMap_nil, State.appendBits, List.append_nil]
  | @cons i e is l hi _ ih =>
    rw [List.cons_append, execAll_cons_of_next _ (hi.run s), ih]
    show execAll rest (State.appendBits _ (l.flatMap (symBits s.payloadTables))) = _
    rw [State.appendBits, State.appendBits, State.appendBits, List.flatMap_cons, List.append_assoc]

/-- Settles O29: the instructions that spell the buffer's Symbols, and EOB after them. -/
theorem payloadByElements : Obligations.PayloadByElements := by
  intro s h
  obtain ⟨is, his⟩ := exists_spells_of_symsOk h
  refine ⟨is, map_encode_of_spells his, wf_of_spells his, ?_⟩
  rw [execAll_spells his, execAll_cons_of_next [] (t := _) rfl, execAll]
  show Host.Outcome.next (State.appendBits _ (llBits s.payloadTables 256 0 0)) = _
  rw [llBits_eob, State.appendBits, State.appendBits, List.append_assoc]

end Sys2Proof.Machine
end

section
/-! SUPPORT. The guards of the core's steps (R280), the state a reset gives (R371, R312), and the
invariants at reset and under each step (R52). With it the proofs of O9, O34, O53 to O55, O57 and O58. -/

namespace Sys2Proof.Machine

/-! ## The guards of the core's steps -/

/-- Settles O34: each guard is the phase's own, in `enabledStep` read off by `enabledStep_cases` and from
each guard by its converse. -/
theorem enabledSteps : Obligations.EnabledSteps := fun s =>
  ⟨⟨State.guard_of_encode, fun ⟨hp, hlt, hlook⟩ => State.enabledStep_of_encode hp hlt hlook⟩,
    ⟨fun h => by simpa [h] using s.enabledStep_cases, State.enabledStep_of_flush⟩,
    ⟨State.guard_of_drain, fun ⟨hp, hlen, hroom⟩ => State.enabledStep_of_drain hp hlen hroom⟩,
    ⟨State.guard_of_finish, fun ⟨hp, he, hpr⟩ => State.enabledStep_of_finish hp he hpr⟩⟩

/-! ## Reset -/

/-- A reset leaves every element of the table of R51 at its reset value (R371). -/
theorem State.doReset_resetFields (s : State) : ResetFields s.doReset :=
  { resetState with coreId := rfl }

/-- STATUS after a reset: only `IN_READY` is set (R40). -/
theorem State.doReset_status (s : State) : s.doReset.status = 1 := reset_status

theorem State.respond_status (s : State) (w : Word) : (s.respond w).status = s.status := rfl

/-- Settles O9: SOFT_RESET and the reset input both are RESET(), the first with a response. -/
theorem resetOperation : Obligations.ResetOperation := by
  intro s rest
  refine ⟨⟨s.doReset.respond 0, rfl, { s.doReset_resetFields with coreId := rfl }, ?_, rfl, rfl⟩,
    fun hturns => ⟨_, step_rst (State.nextTurn_of_turns hturns), State.doReset_resetFields _,
      State.doReset_status _, ?_⟩⟩
  · rw [State.respond_status, State.doReset_status]
  · rw [State.doReset_turns, State.takeTurn_of_turns hturns]

/-! ## The invariants at reset -/

theorem reset_indexInv : IndexInv State.reset where
  canonical := reset_indexExact.canonical
  exact := reset_indexExact.exact
  received _ := .inl rfl

/-- Settles O53: at reset the input, the block, the queue and the FIFO are all empty. -/
theorem invariantAtReset : Obligations.InvariantAtReset where
  left :=
    { cursor := reset_cursorInv
      store := reset_storeInv
      index := reset_indexInv
      sym := .of_empty rfl rfl
      freq := .of_empty rfl rfl rfl
      phase := .of_tail (.inl rfl) (Nat.zero_lt_succ 7)
      out := .of_empty rfl
      size := rfl }
  right _ hx := nomatch hx

/-! ## The invariants under each step -/

/-- Settles O54. -/
theorem outputAndSizeKept : Obligations.OutputAndSizeKept :=
  fun _ _ ho hi hstep => ⟨step_outInv hstep ho, step_sizeInv hstep hi⟩

/-- Settles O55: what a step does to the window keeps both. -/
theorem cursorAndStoreKept : Obligations.CursorAndStoreKept :=
  fun _ _ hc hm hstep => ⟨(step_window hstep).cursorInv hc, (step_window hstep).storeInv hc hm⟩

/-- Settles O57. -/
theorem symbolsAndCountsKept : Obligations.SymbolsAndCountsKept :=
  fun _ _ hs hf hstep => ⟨step_symInv hstep hs, step_freqInv hstep hf⟩

/-- Settles O58. -/
theorem phaseKept : Obligations.PhaseKept :=
  fun _ _ hagents hi hstep => step_phaseInv hstep hagents hi

end Sys2Proof.Machine
end

section
/-! SUPPORT. What an ENCODE_STEP says of the input (R166, R281): a match is found where there is one, what
is recorded spells the bytes consumed, and bytes that come later make no difference. With it the proofs of
O37, O38 and O39. -/

namespace Sys2Proof.Machine

/-! ## A match is found where there is one -/

theorem append_inj {v w : Nat} {a a' : BitVec v} {b b' : BitVec w} (h : a ++ b = a' ++ b') :
    a = a' ∧ b = b' :=
  ⟨by rw [← BitVec.extractLsb'_append_eq_left (a := a) (b := b), h, BitVec.extractLsb'_append_eq_left],
    by rw [← BitVec.setWidth_append_eq_right (a := a) (b := b), h, BitVec.setWidth_append_eq_right]⟩

/-- Three bytes of one key are three bytes of the other. -/
theorem State.winRead_eq_of_keyAt {s : State} {p q : Nat} {k : Key} (hp : s.keyAt p = some k)
    (hq : s.keyAt q = some k) {j : Nat} (hj : j < 3) : s.winRead (q + j) = s.winRead (p + j) := by
  obtain ⟨a, b, c, ha, hb, hc, rfl⟩ := State.keyAt_some hp
  obtain ⟨a', b', c', ha', hb', hc', hkey⟩ := State.keyAt_some hq
  obtain ⟨hab, rfl⟩ := append_inj hkey
  obtain ⟨rfl, rfl⟩ := append_inj hab
  obtain rfl | rfl | rfl : j = 0 ∨ j = 1 ∨ j = 2 := by omega
  · exact ha'.trans ha.symm
  · exact hb'.trans hb.symm
  · exact hc'.trans hc.symm

/-- A comparison of two positions with the same key counts at least its three bytes (R156). -/
theorem State.three_le_of_matchFrom {s : State} {p q n m : Nat} {k : Key} (hp : s.keyAt p = some k)
    (hq : s.keyAt q = some k) (hn : 3 ≤ n) (h : s.matchFrom q p n 0 = some m) : 3 ≤ m := by
  by_contra hlt
  obtain ⟨a, b, ha, hb, hne⟩ := State.matchFrom_stop h (by omega)
  rw [State.winRead_eq_of_keyAt hp hq (by omega), hb] at ha
  exact hne (Option.some.inj ha).symm

/-- The index lists every window position whose key is known (R152). -/
theorem IndexExact.mem_get_iff {s : State} (h : IndexExact s) {k : Key} {q : Nat} :
    q ∈ s.pindex.get k ↔ s.wstart ≤ q ∧ q < s.p ∧ q + 2 < s.r ∧ s.keyAt q = some k := by
  rw [h.exact, s.indexSpec_eq, State.keyed, List.mem_filter, List.mem_reverse, List.mem_range'_1,
    Bool.and_eq_true, decide_eq_true_eq, decide_eq_true_eq]
  have hw : s.wstart ≤ s.p := windowStart_le _
  constructor
  · rintro ⟨⟨h1, h2⟩, h3⟩
    exact ⟨h1, by omega, h3⟩
  · rintro ⟨h1, h2, h3⟩
    exact ⟨⟨h1, by omega⟩, h3⟩

/-- A candidate at least `n` long makes the scan's answer at least `n` long, up to the early-exit length
(R160, R161). -/
theorem State.scan_ge {s : State} {p cap q k n : Nat} {l : List Nat} {best c : Candidate}
    (hbest : best.length < n) (hn : n ≤ 250) (h : s.scan p cap l best = some c) (hq : q ∈ l)
    (hk : s.matchFrom q p cap 0 = some k) (hnk : n ≤ k) : n ≤ c.length := by
  obtain ⟨-, hall⟩ | ⟨-, l1, q', l2, rfl, hpick⟩ := State.scan_policy (by omega) h
  · obtain ⟨k', hk', hle⟩ := hall q hq
    rw [hk] at hk'
    have := Option.some.inj hk'
    omega
  · by_contra hshort
    have hle : ∀ k', s.matchFrom q p cap 0 = some k' → k' ≤ c.length → False := fun k' hk' hle => by
      rw [hk] at hk'
      have := Option.some.inj hk'
      omega
    obtain h1 | h2 := List.mem_append.1 hq
    · obtain ⟨k', hk', hlt, -⟩ := hpick.before q h1
      exact hle k' hk' hlt.le
    · obtain rfl | h2 := List.mem_cons.1 h2
      · exact hle _ hpick.length le_rfl
      · obtain ⟨k', hk', hlt⟩ := hpick.after (by omega) q h2
        exact hle k' hk' hlt

/-- Below 4 bytes no match is attempted (R158). -/
theorem State.findBestMatch_of_few {s : State} {p avail : Nat} (h : avail < 4) :
    s.findBestMatch p avail = some ⟨0, 0⟩ := if_pos h

/-- With 4 bytes FIND_BEST_MATCH is the scan of the cursor's key, short results left out (R156). -/
theorem State.findBestMatch_of_scan {s : State} {p avail : Nat} {key : Key} {best : Candidate}
    (h4 : 4 ≤ avail) (hkey : s.keyAt p = some key)
    (hscan : s.scan p (min 258 avail) (s.pindex.get key) ⟨0, 0⟩ = some best) :
    s.findBestMatch p avail = if best.length < 3 then some ⟨0, 0⟩ else some best := by
  unfold State.findBestMatch
  rw [if_neg (show ¬ avail < Config.minLookahead from Nat.not_lt.2 h4), hkey]
  simp only [Config.maxMatch, hscan]
  rfl

/-- A result that is no match is `(0, 0)` (R163). -/
theorem State.findBestMatch_short {s : State} {p avail : Nat} {c : Candidate}
    (h : s.findBestMatch p avail = some c) (hlen : c.length < 3) : c = ⟨0, 0⟩ := by
  obtain hzero | ⟨-, -, -, -, -, h3, -⟩ := State.findBestMatch_cases h
  · exact hzero
  · omega

/-- Settles O39: the index lists exactly the window positions with the cursor's key, each of them is
compared for at least 3 bytes, and the scan answers no less. -/
theorem matchExists : Obligations.MatchExists := by
  intro s hi
  have hx := hi.index.indexExact
  refine ⟨State.findBestMatch_of_few, fun h4 => ?_⟩
  obtain ⟨c, hc⟩ := hx.findBestMatch_isSome hi.store hi.cursor.cursor
  refine ⟨c, hc, ⟨fun h3 => ?found, fun ⟨q, hlo, hhi, hq⟩ => ?answer⟩, State.findBestMatch_short hc⟩
  case found =>
    obtain rfl | ⟨key, q, hmem, -, hkey, -, -, -⟩ := State.findBestMatch_cases hc
    · exact absurd h3 (by decide)
    · obtain ⟨hlo, hhi, -, hq⟩ := hx.mem_get_iff.1 hmem
      exact ⟨q, hlo, hhi, hq.trans hkey.symm⟩
  case answer =>
    obtain ⟨key, hkey⟩ := hi.store.keyAt_isSome (q := s.p) (windowStart_le _) (by omega)
    rw [hkey] at hq
    have hmem : q ∈ s.pindex.get key := hx.mem_get_iff.2 ⟨hlo, hhi, by omega, hq⟩
    obtain ⟨best, hscan⟩ := hi.store.scan_isSome (p := s.p) (cap := min 258 (s.r - s.p)) (by omega)
      (l := s.pindex.get key) (fun q hq => ⟨(hx.mem_get hq).1, (hx.mem_get hq).2.le⟩) ⟨0, 0⟩
    obtain ⟨k, hk⟩ := hi.store.matchFrom_isSome hlo hhi.le (k := 0) (n := min 258 (s.r - s.p)) (by omega)
    have h3 : 3 ≤ best.length := State.scan_ge (by decide) (by decide) hscan hmem hk
      (State.three_le_of_matchFrom hkey hq (by omega) hk)
    have hbest : s.findBestMatch s.p s.avail = some best :=
      (State.findBestMatch_of_scan h4 hkey hscan).trans (if_neg (Nat.not_lt.2 h3))
    rw [hbest] at hc
    exact Option.some.inj hc ▸ h3

/-! ## What is recorded spells the bytes consumed -/

theorem lengthOf_lenCode {l : Nat} {c : SymCode} (h : lenCode l = some c) : lengthOf c.sym c.xv = l := by
  obtain ⟨h1, h2⟩ := lenCode_domain h
  obtain hl | rfl := Nat.lt_or_eq_of_le h2
  · rw [lenCode_of_lt h1 hl, Option.map_eq_some_iff] at h
    obtain ⟨i, hi, rfl⟩ := h
    obtain ⟨-, hlo, -⟩ := largestBase_spec hi
    rw [lengthOf, Nat.add_sub_cancel_left, Nat.add_sub_cancel' hlo]
  · rw [← Option.some.inj (lenCode_max.symm.trans h)]
    rfl

theorem distanceOf_distCode {d : Nat} {c : SymCode} (h : distCode d = some c) :
    distanceOf c.sym c.xv = d := by
  obtain ⟨h1, h2⟩ := distCode_domain h
  rw [distCode_of_le h1 h2, Option.map_eq_some_iff] at h
  obtain ⟨i, hi, rfl⟩ := h
  obtain ⟨-, hlo, -⟩ := largestBase_spec hi
  rw [distanceOf, Nat.add_sub_cancel' hlo]

/-- The bytes a match covers stand in the window, and again the match's distance back (R166 (3)). -/
theorem IndexExact.match_repeats {s : State} (h : IndexExact s) {c : Candidate}
    (hc : s.findBestMatch s.p s.avail = some c) (hl : 0 < c.length) :
    c.distance ≤ s.p ∧ ∀ k, k < c.length → (s.winRead (s.p + k)).isSome = true ∧
      s.winRead (s.p - c.distance + k) = s.winRead (s.p + k) := by
  obtain rfl | ⟨key, q, hmem, -, -, -, hmatch, hd⟩ := State.findBestMatch_cases hc
  · exact absurd hl (lt_irrefl _)
  · obtain ⟨-, hlt⟩ := h.mem_get hmem
    have hback : s.p - c.distance = q := by omega
    refine ⟨by omega, fun k hk => ?_⟩
    obtain ⟨b, hq, hp⟩ := (State.matchFrom_spec hmatch).2.2 k (Nat.zero_le k) hk
    rw [hback, hp, hq]
    exact ⟨rfl, rfl⟩

/-- Settles O37: the candidate of an ENCODE_STEP is recorded as a literal of the cursor's byte, or as the
pair that spells its length and distance. -/
theorem encodeLossless : Obligations.EncodeLossless := by
  intro s hi hp hlt hlook
  have hx := hi.index.indexExact
  obtain ⟨c, t, hc, hturn, hliteral, hpair, -⟩ := encodeStepResult s hi hp hlt hlook
  refine ⟨t, hturn, ?_⟩
  obtain hshort | hlong := Nat.lt_or_ge c.length 3
  · obtain ⟨b, hb, hsym, -, hpt, -⟩ := hliteral hshort
    exact .inl ⟨b, hb, hsym, hpt⟩
  · obtain ⟨l, d, hl, hd, hsym, -, hpt, -⟩ := hpair hlong
    obtain ⟨-, hmax⟩ := lenCode_domain hl
    obtain ⟨hd1, hd2⟩ := distCode_domain hd
    obtain ⟨hback, hrepeat⟩ := hx.match_repeats hc (by omega)
    have hlen := lengthOf_lenCode hl
    have hdist := distanceOf_distCode hd
    exact .inr ⟨l.sym, l.xv, l.xb, d.sym, d.xv, d.xb, hsym, lenOk_of_lenCode hl, distOk_of_distCode hd,
      by rw [hlen]; exact ⟨hlong, hmax, hpt, by rw [hdist]; exact ⟨hd1, hd2, hback, hrepeat⟩⟩⟩

/-! ## Bytes that come later -/

theorem Memory.read_none {m : Memory} {q : Nat} (h : q ∉ m.map Prod.fst) : m.read q = none := by
  rw [← Memory.read_isSome, Bool.not_eq_true, Option.isSome_eq_false_iff, Option.isNone_iff_eq_none] at h
  exact h

/-- A canonical store is determined by its positions and its bytes. -/
theorem Memory.ext_of_read {m n : Memory} (hm : m.wf) (hkeys : m.map Prod.fst = n.map Prod.fst)
    (hread : ∀ q, m.read q = n.read q) : m = n := by
  induction m generalizing n with
  | nil => exact (List.map_eq_nil_iff.1 hkeys.symm).symm
  | cons c m ih =>
    obtain ⟨k, a⟩ := c
    cases n with
    | nil => exact nomatch hkeys
    | cons c' n =>
      obtain ⟨k', a'⟩ := c'
      obtain ⟨hkey, hrest⟩ := List.cons.inj hkeys
      obtain rfl : k = k' := hkey
      obtain ⟨hlow, hm⟩ := List.pairwise_cons.1 hm
      obtain rfl : a = a' := by simpa [Memory.read] using hread k
      have hfirst : k ∉ m.map Prod.fst := fun hmem => lt_irrefl _ (hlow k hmem)
      refine congrArg _ (ih hm hrest fun q => ?_)
      by_cases hq : k = q
      · subst hq
        rw [Memory.read_none hfirst, Memory.read_none (hrest ▸ hfirst)]
      · simpa [Memory.read, hq] using hread q

/-- Two exact stores of one window and count that read the same within it are the same. -/
theorem StoreInv.ext {s t : State} (hs : StoreInv s) (ht : StoreInv t) (hp : t.p = s.p)
    (hr : t.r = s.r) (hread : ∀ q, s.wstart ≤ q → q < s.r → t.store.read q = s.store.read q) :
    t.store = s.store := by
  have hkeys : t.store.map Prod.fst = s.store.map Prod.fst := by
    rw [ht, hs, hr, State.wstart, State.wstart, hp]
  refine Memory.ext_of_read ht.wf hkeys fun q => ?_
  by_cases hq : q ∈ s.store.map Prod.fst
  · have hrange := hq
    rw [hs, List.mem_range'_1] at hrange
    exact hread q hrange.1 (by omega)
  · rw [Memory.read_none hq, Memory.read_none (hkeys ▸ hq)]

/-- A byte is accepted behind the last position that is held. -/
theorem StoreInv.read_of_ge {s : State} (h : StoreInv s) {q : Nat} (hw : s.wstart ≤ s.r) (hq : s.r ≤ q) :
    s.store.read q = none := by
  refine Memory.read_none ?_
  rw [h, List.mem_range'_1]
  omega

/-- `s` with one more byte accepted holds the byte that is still to come for `s`. -/
theorem StoreInv.follows_acceptByte {s : State} (h : StoreInv s) (hp : s.p ≤ s.r) (b : Byte) :
    Follows [b] s (s.acceptByte b) where
  p := rfl
  r := rfl
  held q _ hq := Memory.read_write_other _ _ _ _ hq.ne
  later q hq := by
    rw [State.acceptByte_store]
    obtain rfl | hlt := hq.eq_or_lt
    · rw [Memory.read_write_self, Nat.sub_self]
      rfl
    · rw [Memory.read_write_other _ _ _ _ hlt.ne', h.read_of_ge ((windowStart_le _).trans hp) hq,
        List.getElem?_eq_none (by simp only [List.length_singleton]; omega)]
  pindex := rfl
  sym := rfl
  symcount := rfl
  freqLL := rfl
  freqD := rfl

/-- What an ENCODE_STEP writes: the cursor, the store and the index, the open block, and the phase. -/
theorem State.encodeStep_writes {s t : State} (hroom : s.symbufFull = false)
    (h : s.encodeStep = .next t) :
    t = { s with
      p := t.p, store := t.store, pindex := t.pindex, sym := t.sym, symcount := t.symcount
      freqLL := t.freqLL, freqD := t.freqD, phase := t.phase } := by
  obtain ⟨c, s', n, u, -, hrec, hu, rfl⟩ := (State.encodeStep_next_iff hroom).1 h
  rw [State.flushTrigger_consumeN hu, hrec.frame]

/-- An ENCODE_STEP keeps the store exact and the cursor within the input. -/
theorem StoreInv.encodeStep {s t : State} (h : StoreInv s) (hroom : s.symbufFull = false)
    (ht : s.encodeStep = .next t) : StoreInv t ∧ t.p ≤ t.r := by
  obtain ⟨c, s', n, u, hc, hrec, hu, rfl⟩ := (State.encodeStep_next_iff hroom).1 ht
  have hs' : SameWindow s s' := by
    rw [hrec.frame]
    exact ⟨rfl, rfl, rfl, rfl⟩
  have hwindow := SameWindow.flushTrigger u
  obtain ⟨-, hle, hr⟩ := State.consumeN_p hu
  refine ⟨hwindow.storeInv
    (State.consumeN_induct (P := StoreInv) (fun _ _ h => h.consume) (hs'.storeInv h) hu), ?_⟩
  rw [hwindow.p, hwindow.r, hr]
  exact hle (hrec.bounds hc).1

/-- The two stores of `encodeIgnoresLaterInput`: what follows `t` and holds `b` behind it is `t` with `b`
accepted. -/
theorem Follows.store_eq {t v : State} {b : Byte} (h : Follows [b] t v) (ht : StoreInv t)
    (hp : t.p ≤ t.r) (hv : StoreInv v) : v.store = t.store.write t.r b := by
  refine StoreInv.ext (s := t.acceptByte b) (ht.acceptByte hp b) hv h.p h.r fun q hw hq => ?_
  rw [State.acceptByte_store]
  obtain hlt | rfl := Nat.lt_succ_iff_lt_or_eq.1 hq
  · rw [Memory.read_write_other _ _ _ _ hlt.ne, h.held q hw hlt]
  · rw [Memory.read_write_self, h.later _ le_rfl, Nat.sub_self]
    rfl

/-- Settles O38: the step after the byte follows the step before it, so it writes the same, and what
neither step writes the byte has changed in the same way. -/
theorem encodeIgnoresLaterInput : Obligations.EncodeIgnoresLaterInput := by
  intro s b hi hp he hlook
  have hroom := hi.sym.symbufFull hp
  have hlt : s.p < s.r := by omega
  have hsaccept : StoreInv (s.acceptByte b) := hi.store.acceptByte hlt.le b
  obtain ⟨t, ht⟩ := hi.index.indexExact.encodeStep_next hi.store hlt
  obtain ⟨v, hv, hfollow⟩ := (hi.store.follows_acceptByte hlt.le b).encodeStep (.inr hlook)
    hi.index.indexExact hlt hroom ht
  have henabled := State.enabledStep_of_encode hp hlt (.inr hlook)
  have henabled' : (s.acceptByte b).enabledStep = some .encodeStep :=
    State.enabledStep_of_encode hp (Nat.lt_succ_of_lt hlt)
      (.inr (by simp only [State.avail, State.acceptByte_p, State.acceptByte_r]; omega))
  refine ⟨t, (State.coreTurn_encode henabled).trans ht,
    (State.coreTurn_encode henabled').trans (hv.trans (congrArg _ ?_))⟩
  obtain ⟨hstore, hcursor⟩ := hi.store.encodeStep hroom ht
  obtain ⟨hstore', -⟩ := hsaccept.encodeStep hroom hv
  have hbytes := hfollow.store_eq hstore hcursor hstore'
  obtain ⟨-, -, hr, -, hphase⟩ := State.encodeStep_frame hroom ht
  obtain ⟨-, -, -, -, hphase'⟩ := State.encodeStep_frame (s := s.acceptByte b) hroom hv
  have hsame : v.phase = t.phase := by rw [hphase', hphase, hfollow.symcount]; rfl
  calc v = { s.acceptByte b with
          p := v.p, store := v.store, pindex := v.pindex, sym := v.sym, symcount := v.symcount
          freqLL := v.freqLL, freqD := v.freqD, phase := v.phase } :=
        State.encodeStep_writes (s := s.acceptByte b) hroom hv
    _ = State.acceptByte { s with
          p := t.p, store := t.store, pindex := t.pindex, sym := t.sym, symcount := t.symcount
          freqLL := t.freqLL, freqD := t.freqD, phase := t.phase } b := by
        rw [hfollow.p, hbytes, hr, hfollow.pindex, hfollow.sym, hfollow.symcount, hfollow.freqLL,
          hfollow.freqD, hsame]
        rfl
    _ = t.acceptByte b := by rw [← State.encodeStep_writes hroom ht]

end Sys2Proof.Machine
end

section
/-! SUPPORT. The bytes of a bit stream (R272, R277), the degenerate alphabets (R186, R187), one round of
the limiter (R188, R191), and what the tables of a dynamic block say of its Symbols (R243 to R250). With
it the proofs of O32, O46, O48 and O52. -/

namespace Sys2Proof.Machine

/-! ## Bytes of bits -/

theorem length_packBytes {n : Nat} {l : List Bool} (h : l.length ≤ 8 * n) :
    (packBytes n l).length = (l.length + 7) / 8 := by
  induction n generalizing l with
  | zero => rw [List.eq_nil_of_length_eq_zero (Nat.le_zero.1 h)]; rfl
  | succ n ih =>
    obtain rfl | hne := eq_or_ne l []
    · rfl
    · have hpos := List.length_pos_of_ne_nil hne
      have hrest := ih (l := l.drop 8) (by rw [List.length_drop]; omega)
      rw [packBytes_succ n hne, List.length_cons, hrest, List.length_drop]
      omega

/-- Byte `j` holds the bits from `8 j` on (R272). -/
theorem packBytes_getD {n j : Nat} {l : List Bool} (hn : j < n) (hj : 8 * j < l.length) :
    (packBytes n l).getD j 0 = headByte (l.drop (8 * j)) := by
  induction n generalizing j l with
  | zero => exact absurd hn (Nat.not_lt_zero j)
  | succ n ih =>
    have hne : l ≠ [] := List.ne_nil_of_length_pos (Nat.zero_lt_of_lt hj)
    rw [packBytes_succ n hne]
    cases j with
    | zero => rfl
    | succ j =>
      rw [List.getD_cons_succ, ih (Nat.lt_of_succ_lt_succ hn) (by rw [List.length_drop]; omega),
        List.drop_drop, Nat.mul_succ, Nat.add_comm 8]

/-- Settles O32: byte `k / 8` holds the bits from `k - k % 8` on, the first in bit 0. -/
theorem byteAssembly : Obligations.ByteAssembly := by
  intro l
  refine ⟨length_packBytes (by omega), fun k hk => ?_⟩
  rw [packBytes_getD (by omega) (by omega), headByte_getLsbD (Nat.mod_lt k (by decide)),
    List.getD_eq_getElem?_getD, List.getElem?_drop, Nat.div_add_mod, List.getD_eq_getElem?_getD]

/-! ## Degenerate alphabets -/

theorem usedCount_eq_zero_iff {f : List Nat} : usedCount f = 0 ↔ ∀ x ∈ f, x = 0 := by
  simp [usedCount, List.countP_eq_zero]

/-- Without a used symbol there is no leaf to begin with (R187). -/
theorem buildLengths_of_unused {f : List Nat} (h : usedCount f = 0) :
    buildLengths f = .error .emptyAlphabet := by
  have hleaves : leafNodes f = [] := by
    have hused : usedSymbols f = [] := by
      rw [← List.map_eq_nil_iff (f := Prod.snd), ← List.length_eq_zero_iff]
      exact (usedIndices_length f).trans h
    rw [leafNodes, hused]
    rfl
  have hqueue : initialQueue f = [] := by rw [initialQueue, hleaves]; rfl
  rw [buildLengths, hqueue]
  rfl

theorem Tree.eq_leaf_of_symbols {t : Tree} {s : Nat} (h : t.symbols = [s]) : t = .leaf s := by
  cases t with
  | leaf sym => rw [List.singleton_inj.1 h]
  | node l r =>
    have hdepth := Tree.rootDepth_of_single (t := .node l r) (congrArg List.length h)
    exact nomatch hdepth

/-- A single used symbol is the whole list of used symbols. -/
theorem usedIndices_of_single {f : List Nat} {s : Nat} (hs : 0 < f.getD s 0)
    (hother : ∀ j, j ≠ s → f.getD j 0 = 0) : usedIndices f = [s] := by
  refine List.perm_singleton.1 ((List.perm_ext_iff_of_nodup (usedIndices_nodup f)
    (List.nodup_singleton s)).2 fun j => ?_)
  rw [mem_usedIndices, List.mem_singleton]
  constructor
  · intro hj
    by_contra hne
    rw [hother j hne] at hj
    exact lt_irrefl _ hj
  · rintro rfl
    exact hs

/-- Settles O46: BUILD_LENGTHS answers the lengths of a tree of the used symbols where there is one, and a
single used symbol is the tree's one leaf. -/
theorem degenerateAlphabets : Obligations.DegenerateAlphabets := by
  refine fun f => ⟨⟨fun herror => ?_, fun hzero => ?_⟩, fun s _ hs hother => ?_⟩
  · refine usedCount_eq_zero_iff.1 (Nat.eq_zero_of_not_pos fun hpos => ?_)
    obtain ⟨t, ht, -⟩ := buildLengths_tree hpos
    exact nomatch herror.symm.trans ht
  · exact buildLengths_of_unused (usedCount_eq_zero_iff.2 hzero)
  · obtain ⟨t, ht, hperm⟩ := buildLengths_tree (usedCount_pos hs)
    rw [usedIndices_of_single hs hother] at hperm
    rw [ht, Tree.eq_leaf_of_symbols (List.perm_singleton.1 hperm)]
    rfl

/-! ## One round of the limiter -/

/-- Settles O48: a round that answers has swapped three symbols, and `SwapAt` says what that keeps. -/
theorem limiterRound : Obligations.LimiterRound := by
  intro len len' limit habove hround
  obtain ⟨l, a, b, c, hswap, rfl⟩ := limitRound_inv habove hround
  exact ⟨swapLengths_length, hswap.excess_add_two_le, hswap.kraftSum_eq le_rfl, hswap.pos_getD_iff⟩

/-! ## The used part of a table -/

theorem usedLength_le (l : List Nat) : usedLength l ≤ l.length := by
  induction l with
  | nil => exact le_rfl
  | cons x l ih =>
    unfold usedLength
    rw [List.length_cons]
    split_ifs <;> omega

/-- The used part of a table reaches past each nonzero entry (R243). -/
theorem lt_usedLength {l : List Nat} {i : Nat} (h : 0 < l.getD i 0) : i < usedLength l := by
  induction l generalizing i with
  | nil => simp at h
  | cons x l ih =>
    unfold usedLength
    cases i with
    | zero =>
      rw [List.getD_cons_zero] at h
      split_ifs <;> omega
    | succ i =>
      have hi := ih (List.getD_cons_succ ▸ h)
      rw [if_neg (by omega)]
      omega

/-! ## The tables of a dynamic block -/

/-- Forcing EOB takes no symbol's frequency away, and gives EOB one (R244). -/
theorem forceEob_pos {f : List Nat} {s : Nat} (hf : 256 < f.length) (h : 0 < f.getD s 0 ∨ s = 256) :
    0 < (forceEob f).getD s 0 := by
  by_cases hs : s = 256
  · subst hs
    rw [forceEob, getD_set hf, if_pos rfl]
    omega
  · have hpos := h.resolve_right hs
    rw [forceEob, List.getD_eq_getElem?_getD, List.getElem?_set_ne (Ne.symm hs),
      ← List.getD_eq_getElem?_getD]
    exact hpos

/-- Forcing a distance happens only where none was counted (R245). -/
theorem forceDistance_of_pos {f : List Nat} {s : Nat} (h : 0 < f.getD s 0) : forceDistance f = f := by
  have hs : s < f.length := by
    by_contra hge
    rw [List.getD_eq_default _ _ (Nat.le_of_not_lt hge)] at h
    exact lt_irrefl _ h
  have hmem : f.getD s 0 ∈ f := List.getD_eq_getElem f 0 hs ▸ List.getElem_mem hs
  refine if_neg fun hall => ?_
  have hzero := of_decide_eq_true (List.all_eq_true.1 hall _ hmem)
  omega

theorem getD_tableNats {w n : Nat} (t : Vector (BitVec w) n) (i : Nat) :
    (tableNats t).getD i 0 = (entry t i).toNat := by
  by_cases h : i < n
  · rw [List.getD_eq_getElem _ _ (by rwa [length_tableNats]), entry_of_lt t h]
    simp [tableNats]
  · rw [List.getD_eq_default _ _ (by rw [length_tableNats]; omega), entry_of_ge t (Nat.le_of_not_lt h)]
    rfl

theorem getD_lt {l : List Nat} {b : Nat} (hb : 0 < b) (h : ∀ x ∈ l, x < b) (i : Nat) :
    l.getD i 0 < b := by
  by_cases hi : i < l.length
  · exact List.getD_eq_getElem l 0 hi ▸ h _ (List.getElem_mem hi)
  · rwa [List.getD_eq_default _ _ (Nat.le_of_not_lt hi)]

/-- Numbers that fit the fields of a table are what its entries hold. -/
theorem entry_packTable_toNat {w n : Nat} {l : List Nat} {i : Nat} (hi : i < n)
    (h : ∀ x ∈ l, x < 2 ^ w) : (entry (packTable w n l) i).toNat = l.getD i 0 := by
  rw [entry_packTable l hi, BitVec.toNat_ofNat, Nat.mod_eq_of_lt (getD_lt (Nat.two_pow_pos w) h i)]

theorem tableNats_packTable {w n : Nat} {l : List Nat} (hlen : l.length = n) (h : ∀ x ∈ l, x < 2 ^ w) :
    tableNats (packTable w n l) = l := by
  refine List.ext_getElem (by rw [length_tableNats, hlen]) fun i hi hi' => ?_
  rw [← List.getD_eq_getElem _ 0 hi, ← List.getD_eq_getElem _ 0 hi', getD_tableNats,
    entry_packTable_toNat (by omega) h]

/-- The lengths of the limiter's answer (R192): of the answer at hand, where `LimitedLengths` says that
there is one. -/
theorem limitedLengths_spec {f len : List Nat} {limit : Nat} (hlimit : 1 ≤ limit)
    (hsize : f.length ≤ 2 ^ limit) (hused : 0 < usedCount f) (h : limitedLengths f limit = .ok len) :
    len.length = f.length ∧ (∀ x ∈ len, x ≤ limit) ∧
      ∀ s, s < f.length → (1 ≤ len.getD s 0 ↔ 0 < f.getD s 0) := by
  obtain ⟨len', hlen', hlength, hle, hpos, -⟩ := Huffman.limitedLengths f limit hlimit hsize hused
  obtain rfl : len = len' := Except.ok.inj (h.symm.trans hlen')
  exact ⟨hlength, hle, hpos⟩

/-- The literal/length code lengths a header announces: up to the last used symbol, and at least the
literals and EOB (R243, R246). -/
def llSent (lenLL : List Nat) : List Nat := (lenLL ++ [0, 0]).take (max (usedLength lenLL) 257)

/-- The distance code lengths a header announces, at least one (R243, R246). -/
def dSent (lenD : List Nat) : List Nat := lenD.take (max (usedLength lenD) 1)

/-- How often each CL symbol is sent (R248). -/
def clUses (lenLL lenD : List Nat) : List Nat :=
  List.zipWith (· + ·) (clFrequencies (encodeCl (llSent lenLL))) (clFrequencies (encodeCl (dSent lenD)))

/-- The CL code lengths in the order they are sent in (R250). -/
def clSent (lenCL : List Nat) : List Nat := Config.clOrder.map fun i => lenCL.getD i 0

/-- The tables of a dynamic block and its header counts, by the code lengths of its three alphabets. -/
structure TablesOf (lenLL lenD lenCL : List Nat) (w : Work) : Prop where
  tableLL : w.lenLL = packTable 4 288 (lenLL ++ [0, 0])
  tableD : w.lenD = packTable 4 30 lenD
  tableCL : w.lenCL = packTable 4 19 lenCL
  cls : w.cls = encodeCl (llSent lenLL) ++ encodeCl (dSent lenD)
  hlit : w.hlit = BitVec.ofNat 5 (max (usedLength lenLL) 257 - 257)
  hdist : w.hdist = BitVec.ofNat 5 (max (usedLength lenD) 1 - 1)
  hclen : w.hclen = BitVec.ofNat 4 (max (usedLength (clSent lenCL)) 4 - 4)

theorem tablesOfLengths_inv {lenLL lenD : List Nat} {w : Work} (h : tablesOfLengths lenLL lenD = .ok w) :
    ∃ lenCL, limitedLengths (clUses lenLL lenD) 7 = .ok lenCL ∧ TablesOf lenLL lenD lenCL w := by
  unfold tablesOfLengths at h
  simp only at h
  split at h
  next => exact nomatch h
  next lenCL hCL =>
    obtain rfl := Except.ok.inj h
    exact ⟨lenCL, hCL, rfl, rfl, rfl, rfl, rfl, rfl, rfl⟩

theorem buildDynamicTables_inv {fLL : Vector Word 286} {fD : Vector Word 30} {w : Work}
    (h : buildDynamicTables fLL fD = .ok w) :
    ∃ lenLL lenD, limitedLengths (forceEob (tableNats fLL)) 15 = .ok lenLL ∧
      limitedLengths (forceDistance (tableNats fD)) 15 = .ok lenD ∧
      tablesOfLengths lenLL lenD = .ok w := by
  unfold buildDynamicTables at h
  split at h
  next => exact nomatch h
  next lenLL hLL =>
    split at h
    next => exact nomatch h
    next lenD hD => exact ⟨lenLL, lenD, hLL, hD, h⟩

theorem length_forceEob (f : List Nat) : (forceEob f).length = f.length := List.length_set

theorem length_forceDistance (f : List Nat) : (forceDistance f).length = f.length := by
  unfold forceDistance
  split_ifs
  · exact List.length_set
  · rfl

/-- A counted literal/length symbol, and EOB, has a length of 1 to 15 (R244, R192). -/
theorem lenLL_spec {fLL : Vector Word 286} {lenLL : List Nat}
    (h : limitedLengths (forceEob (tableNats fLL)) 15 = .ok lenLL) :
    lenLL.length = 286 ∧ (∀ x ∈ lenLL, x ≤ 15) ∧
      ∀ s, s < 286 → (0 < (entry fLL s).toNat ∨ s = 256) → 1 ≤ lenLL.getD s 0 := by
  have hf : (tableNats fLL).length = 286 := length_tableNats fLL
  have hlen : (forceEob (tableNats fLL)).length = 286 := (length_forceEob _).trans hf
  obtain ⟨hlength, hle, hpos⟩ := limitedLengths_spec (by decide) (by rw [hlen]; decide)
    (usedCount_forceEob (by omega)) h
  refine ⟨hlength.trans hlen, hle, fun s hs hcounted => (hpos s (by omega)).2 ?_⟩
  exact forceEob_pos (by omega) (by rwa [getD_tableNats])

/-- A counted distance symbol has a length of 1 to 15 (R245, R192). -/
theorem lenD_spec {fD : Vector Word 30} {lenD : List Nat}
    (h : limitedLengths (forceDistance (tableNats fD)) 15 = .ok lenD) :
    lenD.length = 30 ∧ (∀ x ∈ lenD, x ≤ 15) ∧
      ∀ s, s < 30 → 0 < (entry fD s).toNat → 1 ≤ lenD.getD s 0 := by
  have hf : (tableNats fD).length = 30 := length_tableNats fD
  have hlen : (forceDistance (tableNats fD)).length = 30 := (length_forceDistance _).trans hf
  obtain ⟨hlength, hle, hpos⟩ := limitedLengths_spec (by decide) (by rw [hlen]; decide)
    (usedCount_forceDistance (by omega)) h
  refine ⟨hlength.trans hlen, hle, fun s hs hcounted => (hpos s (by omega)).2 ?_⟩
  rw [← getD_tableNats] at hcounted
  rwa [forceDistance_of_pos hcounted]

/-! ## The code-length code -/

/-- A nonzero length is sent as a literal where its run begins (R223). -/
theorem literal_mem_encodeCl {lens : List Nat} {v : Nat} (hv : v ∈ lens) (hpos : 0 < v) :
    (⟨v, 0, 0⟩ : ClSym) ∈ encodeCl lens := by
  rw [← runsOf_flatMap lens] at hv
  obtain ⟨run, hrun, hmem⟩ := List.mem_flatMap.1 hv
  obtain rfl := List.eq_of_mem_replicate hmem
  refine List.mem_flatMap.2 ⟨run, hrun, ?_⟩
  rw [encodeRun_of_pos hpos]
  exact List.mem_cons_self

theorem cl_lt_of_mem {lens : List Nat} {e : ClSym} (h : ∀ x ∈ lens, x ≤ 15) (he : e ∈ encodeCl lens) :
    e.v < 19 := by
  obtain h | h | h | h := extraInRange_of_mem_encodeCl h he <;> omega

theorem length_clUses (lenLL lenD : List Nat) : (clUses lenLL lenD).length = 19 := by
  simp [clUses, length_clFrequencies]

/-- A CL symbol of either stream is counted (R225, R248). -/
theorem clUses_pos {lenLL lenD : List Nat} {e : ClSym} (hv : e.v < 19)
    (he : e ∈ encodeCl (llSent lenLL) ++ encodeCl (dSent lenD)) :
    0 < (clUses lenLL lenD).getD e.v 0 := by
  have hsum : (clUses lenLL lenD).getD e.v 0 =
      (clFrequencies (encodeCl (llSent lenLL))).getD e.v 0 +
        (clFrequencies (encodeCl (dSent lenD))).getD e.v 0 := by
    rw [List.getD_eq_getElem _ _ (by rwa [length_clUses]),
      List.getD_eq_getElem _ _ (by rwa [length_clFrequencies]),
      List.getD_eq_getElem _ _ (by rwa [length_clFrequencies])]
    exact List.getElem_zipWith
  rw [hsum]
  obtain h | h := List.mem_append.1 he
  · exact Nat.add_pos_left (clFrequencies_pos h hv) _
  · exact Nat.add_pos_right _ (clFrequencies_pos h hv)

/-- Each literal length stands behind the first four places of the order the CL lengths are sent in
(R5). -/
theorem clOrder_literal : ∀ v < 16, 1 ≤ v → ∃ i < 19, 4 ≤ i ∧ Config.clOrder.getD i 0 = v := by decide

theorem clSent_getD (lenCL : List Nat) {i : Nat} (h : i < 19) :
    (clSent lenCL).getD i 0 = lenCL.getD (Config.clOrder.getD i 0) 0 := by
  have hi : i < Config.clOrder.length := h
  rw [clSent, List.getD_eq_getElem _ _ (by rwa [List.length_map]), List.getElem_map,
    List.getD_eq_getElem _ _ hi]

/-- With a code for a literal length more than four CL lengths are sent (R250). -/
theorem five_le_usedLength_clSent {lenCL : List Nat} {v : Nat} (hv : v < 16) (h1 : 1 ≤ v)
    (h : 1 ≤ lenCL.getD v 0) : 5 ≤ usedLength (clSent lenCL) := by
  obtain ⟨i, hi, h4, rfl⟩ := clOrder_literal v hv h1
  exact h4.trans_lt (lt_usedLength (by rwa [clSent_getD lenCL hi]))

/-- Code lengths of a literal/length alphabet with EOB and of a distance alphabet, as the limiter gives
them (R192, R244, R245). -/
structure Alphabets (lenLL lenD : List Nat) : Prop where
  length_LL : lenLL.length = 286
  le_LL : ∀ x ∈ lenLL, x ≤ 15
  eob : 1 ≤ lenLL.getD 256 0
  length_D : lenD.length = 30
  le_D : ∀ x ∈ lenD, x ≤ 15

namespace Alphabets

variable {lenLL lenD lenCL : List Nat} {w : Work} (h : Alphabets lenLL lenD)
include h

theorem le_padded : ∀ x ∈ lenLL ++ [0, 0], x ≤ 15 := by
  intro x hx
  simp only [List.mem_append, List.mem_cons, List.not_mem_nil, or_false, or_self] at hx
  exact hx.elim (h.le_LL x) fun h0 => h0 ▸ Nat.zero_le 15

theorem le_llSent : ∀ x ∈ llSent lenLL, x ≤ 15 := fun x hx => h.le_padded x (List.mem_of_mem_take hx)

theorem le_dSent : ∀ x ∈ dSent lenD, x ≤ 15 := fun x hx => h.le_D x (List.mem_of_mem_take hx)

/-- EOB's length is among those sent. -/
theorem eob_mem_llSent : lenLL.getD 256 0 ∈ llSent lenLL := by
  have h256 : 256 < lenLL.length := by rw [h.length_LL]; decide
  have hsent : 256 < (llSent lenLL).length := by
    rw [llSent, List.length_take, List.length_append]
    omega
  have hget : (llSent lenLL)[256] = lenLL.getD 256 0 := by
    simp only [llSent, List.getElem_take, List.getElem_append_left h256]
    exact (List.getD_eq_getElem _ _ h256).symm
  exact hget ▸ List.getElem_mem hsent

theorem lenCL_spec (hCL : limitedLengths (clUses lenLL lenD) 7 = .ok lenCL) :
    (∀ x ∈ lenCL, x ≤ 7) ∧
      ∀ e ∈ encodeCl (llSent lenLL) ++ encodeCl (dSent lenD), e.v < 19 ∧ 1 ≤ lenCL.getD e.v 0 := by
  have hv : ∀ e ∈ encodeCl (llSent lenLL) ++ encodeCl (dSent lenD), e.v < 19 := fun e he =>
    (List.mem_append.1 he).elim (cl_lt_of_mem h.le_llSent) (cl_lt_of_mem h.le_dSent)
  have heob := List.mem_append_left (encodeCl (dSent lenD))
    (literal_mem_encodeCl h.eob_mem_llSent h.eob)
  obtain ⟨-, hle, hpos⟩ := limitedLengths_spec (by decide) (by rw [length_clUses]; decide)
    (usedCount_pos (clUses_pos (hv _ heob) heob)) hCL
  exact ⟨hle, fun e he => ⟨hv e he,
    (hpos e.v (by rw [length_clUses]; exact hv e he)).2 (clUses_pos (hv e he) he)⟩⟩

/-- The header counts are in their ranges, and none of them wraps (R246 to R250). -/
theorem counts (ht : TablesOf lenLL lenD lenCL w)
    (hCL : limitedLengths (clUses lenLL lenD) 7 = .ok lenCL) :
    w.hlit.toNat + 257 = max (usedLength lenLL) 257 ∧ w.hlit.toNat ≤ 29 ∧
      w.hdist.toNat + 1 = max (usedLength lenD) 1 ∧ w.hdist.toNat ≤ 29 ∧ 1 ≤ w.hclen.toNat := by
  have hLL := usedLength_le lenLL
  have hD := usedLength_le lenD
  have hP := usedLength_le (clSent lenCL)
  have hP19 : (clSent lenCL).length = 19 := by rw [clSent, List.length_map]; rfl
  have heob := List.mem_append_left (encodeCl (dSent lenD))
    (literal_mem_encodeCl h.eob_mem_llSent h.eob)
  have h15 := h.le_llSent _ h.eob_mem_llSent
  have h5 : 5 ≤ usedLength (clSent lenCL) :=
    five_le_usedLength_clSent (Nat.lt_succ_of_le h15) h.eob ((h.lenCL_spec hCL).2 _ heob).2
  rw [h.length_LL] at hLL
  rw [h.length_D] at hD
  rw [ht.hlit, ht.hdist, ht.hclen, BitVec.toNat_ofNat, BitVec.toNat_ofNat, BitVec.toNat_ofNat]
  omega

/-- The CL symbols spell the lengths the header announces (R226 (a), R249). -/
theorem expand_cls (ht : TablesOf lenLL lenD lenCL w) :
    expandCl w.cls [] = llSent lenLL ++ dSent lenD := by
  rw [ht.cls, expandCl_append, expandCl_encodeCl h.le_llSent, expandCl_encodeCl h.le_dSent]

end Alphabets

/-- Settles O52: the limiter gives each counted symbol a length, in each of the three alphabets, and the
CL stream is that of the lengths the header counts. -/
theorem dynamicTablesFit : Obligations.DynamicTablesFit := by
  intro fLL fD w h
  obtain ⟨lenLL, lenD, hLL, hD, htables⟩ := buildDynamicTables_inv h
  obtain ⟨lenCL, hCL, ht⟩ := tablesOfLengths_inv htables
  obtain ⟨hlengthLL, hleLL, hposLL⟩ := lenLL_spec hLL
  obtain ⟨hlengthD, hleD, hposD⟩ := lenD_spec hD
  have heob : 1 ≤ lenLL.getD 256 0 := hposLL 256 (by decide) (.inr rfl)
  have halph : Alphabets lenLL lenD := ⟨hlengthLL, hleLL, heob, hlengthD, hleD⟩
  obtain ⟨hleCL, hposCL⟩ := halph.lenCL_spec hCL
  obtain ⟨hnLL, hlit, hnD, hdist, hclen⟩ := halph.counts ht hCL
  have hfitLL : ∀ x ∈ lenLL ++ [0, 0], x < 2 ^ 4 := fun x hx => Nat.lt_succ_of_le (halph.le_padded x hx)
  have hfitD : ∀ x ∈ lenD, x < 2 ^ 4 := fun x hx => Nat.lt_succ_of_le (hleD x hx)
  have hfitCL : ∀ x ∈ lenCL, x < 2 ^ 4 := fun x hx => (hleCL x hx).trans_lt (by decide)
  have hentryLL : ∀ s, s < 286 → (entry w.lenLL s).toNat = lenLL.getD s 0 := fun s hs => by
    rw [ht.tableLL, entry_packTable_toNat (by omega) hfitLL, List.getD_append _ _ _ _ (by omega)]
  refine ⟨fun s hs hcounted => ?_, ?_, fun s hs hcounted => ?_, hlit, hdist, hclen, fun e he => ?_, ?_⟩
  · rw [hentryLL s hs]
    exact hposLL s hs (.inl hcounted)
  · rw [hentryLL 256 (by decide)]
    exact heob
  · rw [ht.tableD, entry_packTable_toNat hs hfitD]
    exact hposD s hs hcounted
  · obtain ⟨hv, hpos⟩ := hposCL e (ht.cls ▸ he)
    rw [ht.tableCL, entry_packTable_toNat hv hfitCL]
    exact ⟨hpos, Nat.le_of_lt_succ (getD_lt (by decide) (fun x hx => Nat.lt_succ_of_le (hleCL x hx)) _)⟩
  · rw [halph.expand_cls ht, hnLL, hnD, ht.tableLL, ht.tableD,
      tableNats_packTable (by rw [List.length_append, hlengthLL]; rfl) hfitLL,
      tableNats_packTable hlengthD hfitD]
    rfl

end Sys2Proof.Machine
end
